-- ==== Sys2Proof/Word.lean ====
section
/-! DEFINITION. The word types of RNGCORE64: every register, operand and result is 64 bits wide and unsigned
(spec 00_scope.md R6, R9; 10_state.md R20). -/

namespace Sys2Proof

/-- A 64-bit unsigned value, an element of 0 to 2^64 - 1 (R9). -/
abbrev Word := BitVec 64

/-- A 32-bit unsigned value: an output of the XSH-RR transform (R112), or a half of a word (R43). -/
abbrev Half := BitVec 32

/-- An 8-bit value: an opcode (R60), a status code (R61), a byte of the persisted image (R44). -/
abbrev Byte := BitVec 8

end Sys2Proof
end

