-- ==== Sys2Proof/Config.lean ====
section
/-! DEFINITION. The build parameters of the block (spec 00_scope.md R7). A machine's parameters are fixed when it is
built: no command writes one and reset does not change one (10_state.md R26). -/

namespace Sys2Proof

/-- The implementation parameters of R7. `LAT(op)` is not among them: the model has no time (R217; log entry 5). -/
structure Params where
  /-- `P_MULT`, the value of the constant register MULT (R26). Any 64-bit value is legal (R8). -/
  mult : Word
  /-- `P_INC_RESET`, the value INC takes at reset (R31). -/
  incReset : Word
  /-- `P_DEFAULT_SEED`, the value SEED and STATE take at reset (R31). The spec asks that it is not 0 (R7). -/
  defaultSeed : Word
  /-- `P_NTHNUM_PRESTEP`, 0 or 1: how many transitions NTHNUM discards before its jump (R135). -/
  nthnumPrestep : Fin 2
deriving DecidableEq, Repr

/-- `P_DEFAULT_SEED` is OPEN: the spec gives no value and asks only that it is not zero (R7, R31; D16; N3). This index
has no body, so no proof can learn its value. DESIGN CHOICE, log entry 1: the open parameter is a free value. -/
opaque Config.defaultSeedIndex : Fin (18446744073709551614 + 1)

/-- The default seed: `Config.defaultSeedIndex + 1`, so that it can be every value but 0 and is no value in particular
(R7: "must be non-zero"). -/
def Config.defaultSeed : Word := BitVec.ofNat 64 (Config.defaultSeedIndex.val + 1)

/-- What `req_ready` shows between commands while `rst` is 1, which the spec does not state: R75 tests `rst` beside
`req_ready`, so neither value would accept a command. No body: a free value, applied to the number of edges still to
come. DESIGN CHOICE, log entry 17. -/
opaque Config.reqReadyInReset : Nat → Bool

/-- The parameters of this hardware: the default column of R7. -/
def Config.params : Params where
  mult := 0x27bb2ee687b0b0fd
  incReset := 0x14057b7ef767814f
  defaultSeed := Config.defaultSeed
  nthnumPrestep := 1

end Sys2Proof
end

