-- ==== Sys2Proof/Syntax.lean ====
section
/-! DEFINITION. The commands of the block, one constructor per row of spec/opcode_table.json, and the two formats of the
command port (spec 30_encoding.md R60, R61, R64). -/

namespace Sys2Proof

/-- A command of the block: the analogue of an instruction (R64). A constructor carries exactly the request fields that
its row lists as operands; the fields a row does not list never change the command's effect (R69). Every operand is a
full 64-bit value, and every 64-bit value is legal (R68). -/
inductive Instr where
  /-- `0x01` MUL A, B (R96). -/
  | mul (a b : Word)
  /-- `0x02` ADD A, B (R97). -/
  | add (a b : Word)
  /-- `0x03` MULADD A, B, C (R98). -/
  | muladd (a b c : Word)
  /-- `0x04` STEP (R111). -/
  | step
  /-- `0x05` PEEK (R115). -/
  | peek
  /-- `0x06` NEXT (R116). -/
  | next
  /-- `0x07` SKIP n (R134). -/
  | skip (n : Word)
  /-- `0x08` NTHNUM n (R135). -/
  | nthnum (n : Word)
  /-- `0x09` FFWD d (R132). -/
  | ffwd (d : Word)
  /-- `0x0A` JCALC d (R133). -/
  | jcalc (d : Word)
  /-- `0x0B` SETSEED seed (R160). -/
  | setseed (seed : Word)
  /-- `0x0C` GETSEED (R161). -/
  | getseed
  /-- `0x0D` SETINC increment (R162). -/
  | setinc (inc : Word)
  /-- `0x0E` GETINC (R163). -/
  | getinc
  /-- `0x0F` SETCOUNT count (R164). -/
  | setcount (count : Word)
  /-- `0x10` GETCOUNT (R165). -/
  | getcount
  /-- `0x11` SAVE (R166). -/
  | save
  /-- `0x12` LOAD seed, count, increment (R167). -/
  | load (seed count inc : Word)
deriving DecidableEq, Repr

/-- A request, the format CMD (R60): the four fields as they stand on the port's four buses (R75). -/
structure Request where
  op : Byte
  a : Word
  b : Word
  c : Word
deriving DecidableEq, Repr

/-- The two status values a response can carry; the block never returns any other (R63). -/
inductive Status where
  /-- `ST_OK`: the command was executed by its rule. -/
  | ok
  /-- `ST_ILLEGAL`: the opcode is not assigned and nothing was executed (R191). -/
  | illegal
deriving DecidableEq, Repr

/-- A response, the format RSP (R61). -/
structure Response where
  st : Status
  q0 : Word
  q1 : Word
  q2 : Word
deriving DecidableEq, Repr

end Sys2Proof
end

