-- ==== Sys2Proof/WellFormed.lean ====
section
/-! DEFINITION. What the spec asks of a request, of a command and of a build's parameters. -/

namespace Sys2Proof

/-- The opcode is assigned: `0x01` to `0x12` (R64, R66). -/
def Request.wellFormed (r : Request) : Bool :=
  decide (0x01 ≤ r.op.toNat ∧ r.op.toNat ≤ 0x12)

/-- Every operand value of every command is legal (R68: "no operand value is illegal"), so no command is ill-formed. -/
def Instr.wellFormed : Instr → Bool
  | .mul _ _ => true
  | .add _ _ => true
  | .muladd _ _ _ => true
  | .step => true
  | .peek => true
  | .next => true
  | .skip _ => true
  | .nthnum _ => true
  | .ffwd _ => true
  | .jcalc _ => true
  | .setseed _ => true
  | .getseed => true
  | .setinc _ => true
  | .getinc => true
  | .setcount _ => true
  | .getcount => true
  | .save => true
  | .load _ _ _ => true

/-- A legal build: the default seed is not zero (R7). Any multiplier is legal (R8), and the type of `nthnumPrestep`
holds 0 and 1 only. -/
def Params.wellFormed (P : Params) : Bool :=
  decide (P.defaultSeed ≠ 0)

end Sys2Proof
end

