-- ==== Sys2Proof/Decode.lean ====
section
/-! DEFINITION. The packed request word, the decoder and the encoder (spec 30_encoding.md R60, R64 to R70). -/

namespace Sys2Proof

/-! ## The packed word (R60) -/

/-- The 200-bit packed word of a request: OP in [7:0], A in [71:8], B in [135:72], C in [199:136] (R60). -/
def Request.pack (r : Request) : BitVec 200 :=
  (r.c.setWidth 200 <<< 136) ||| (r.b.setWidth 200 <<< 72) ||| (r.a.setWidth 200 <<< 8) ||| r.op.setWidth 200

/-- The four fields of a packed request word (R60). -/
def Request.unpack (w : BitVec 200) : Request where
  op := w.extractLsb' 0 8
  a := w.extractLsb' 8 64
  b := w.extractLsb' 72 64
  c := w.extractLsb' 136 64

/-! ## The decoder (R64 to R66) -/

/-- Why a request selects no command. -/
inductive DecodeReject where
  /-- The opcode is `0x00` or `0x13` to `0xFF`: the command is ILLEGAL (R66). -/
  | unassignedOpcode (op : Byte)
deriving DecidableEq, Repr

/-- The decoder. It compares all 8 bits of OP with the table of R64, and the operand fields never affect which command
is selected (R65). It is total: an unassigned opcode is rejected by name (R66). A field the selected row does not list
is dropped (R69). -/
def decode (r : Request) : Except DecodeReject Instr :=
  match r.op.toNat with
  | 0x01 => .ok (.mul r.a r.b)
  | 0x02 => .ok (.add r.a r.b)
  | 0x03 => .ok (.muladd r.a r.b r.c)
  | 0x04 => .ok .step
  | 0x05 => .ok .peek
  | 0x06 => .ok .next
  | 0x07 => .ok (.skip r.a)
  | 0x08 => .ok (.nthnum r.a)
  | 0x09 => .ok (.ffwd r.a)
  | 0x0A => .ok (.jcalc r.a)
  | 0x0B => .ok (.setseed r.a)
  | 0x0C => .ok .getseed
  | 0x0D => .ok (.setinc r.a)
  | 0x0E => .ok .getinc
  | 0x0F => .ok (.setcount r.a)
  | 0x10 => .ok .getcount
  | 0x11 => .ok .save
  | 0x12 => .ok (.load r.a r.b r.c)
  | _ => .error (.unassignedOpcode r.op)

/-- The decoder on a packed request word (R60: "the packed word is the form a model's decoder reads"). -/
def decodeWord (w : BitVec 200) : Except DecodeReject Instr := decode (Request.unpack w)

/-- The request whose packed word has the low `nbits` bits of `w`, every other bit 0 (the numbering of
spec/opcode_table.json is the numbering of R60). There is one command length, 200 bits (R60). -/
def requestOfTableWord (nbits w : Nat) : Request :=
  Request.unpack (BitVec.ofNat 200 (w % 2 ^ nbits))

/-- The command the decoder reads from a word of the opcode table's numbering. -/
def decodeTableWord (nbits w : Nat) : Option Instr :=
  (decode (requestOfTableWord nbits w)).toOption

/-! ## The encoder (R64, R73) -/

/-- The opcode of a command (R64). -/
def Instr.opcode : Instr → Byte
  | .mul _ _ => 0x01
  | .add _ _ => 0x02
  | .muladd _ _ _ => 0x03
  | .step => 0x04
  | .peek => 0x05
  | .next => 0x06
  | .skip _ => 0x07
  | .nthnum _ => 0x08
  | .ffwd _ => 0x09
  | .jcalc _ => 0x0A
  | .setseed _ => 0x0B
  | .getseed => 0x0C
  | .setinc _ => 0x0D
  | .getinc => 0x0E
  | .setcount _ => 0x0F
  | .getcount => 0x10
  | .save => 0x11
  | .load _ _ _ => 0x12

/-- The mnemonic of a command, in upper case (R64, R73). -/
def Instr.mnemonic : Instr → String
  | .mul _ _ => "MUL"
  | .add _ _ => "ADD"
  | .muladd _ _ _ => "MULADD"
  | .step => "STEP"
  | .peek => "PEEK"
  | .next => "NEXT"
  | .skip _ => "SKIP"
  | .nthnum _ => "NTHNUM"
  | .ffwd _ => "FFWD"
  | .jcalc _ => "JCALC"
  | .setseed _ => "SETSEED"
  | .getseed => "GETSEED"
  | .setinc _ => "SETINC"
  | .getinc => "GETINC"
  | .setcount _ => "SETCOUNT"
  | .getcount => "GETCOUNT"
  | .save => "SAVE"
  | .load _ _ _ => "LOAD"

/-- The request of a command. A field its row does not list is assembled as 0 (R73). -/
def encode (i : Instr) : Request :=
  match i with
  | .mul a b => ⟨i.opcode, a, b, 0⟩
  | .add a b => ⟨i.opcode, a, b, 0⟩
  | .muladd a b c => ⟨i.opcode, a, b, c⟩
  | .step => ⟨i.opcode, 0, 0, 0⟩
  | .peek => ⟨i.opcode, 0, 0, 0⟩
  | .next => ⟨i.opcode, 0, 0, 0⟩
  | .skip n => ⟨i.opcode, n, 0, 0⟩
  | .nthnum n => ⟨i.opcode, n, 0, 0⟩
  | .ffwd d => ⟨i.opcode, d, 0, 0⟩
  | .jcalc d => ⟨i.opcode, d, 0, 0⟩
  | .setseed seed => ⟨i.opcode, seed, 0, 0⟩
  | .getseed => ⟨i.opcode, 0, 0, 0⟩
  | .setinc inc => ⟨i.opcode, inc, 0, 0⟩
  | .getinc => ⟨i.opcode, 0, 0, 0⟩
  | .setcount count => ⟨i.opcode, count, 0, 0⟩
  | .getcount => ⟨i.opcode, 0, 0, 0⟩
  | .save => ⟨i.opcode, 0, 0, 0⟩
  | .load seed count inc => ⟨i.opcode, seed, count, inc⟩

/-- The packed word of a command. -/
def encodeWord (i : Instr) : BitVec 200 := (encode i).pack

end Sys2Proof
end

