-- ==== Sys2Proof/Machine/Operands.lean ====
section
/-! DEFINITION. Operand values as a host carries them: 32-bit halves, low half first (spec 20_memory.md R43, R45), and
the reduction of a host's integers to the port's widths (30_encoding.md R72). The block itself takes each operand as
one whole 64-bit field, with no extension, scaling or shift (R68). -/

namespace Sys2Proof.Machine

/-- The low half `v[31:0]` of a value (R43). -/
def lowHalf (v : Word) : Half := v.extractLsb' 0 32

/-- The high half `v[63:32]` of a value (R43). -/
def highHalf (v : Word) : Half := v.extractLsb' 32 32

/-- The value of the pair `(lo, hi)`: `hi × 2^32 + lo` (R43). -/
def ofHalves (lo hi : Half) : Word := BitVec.ofNat 64 (hi.toNat * 2 ^ 32 + lo.toNat)

/-- A host integer reduced modulo 2^64 by two's-complement reinterpretation; it never fails (R72). -/
def reduce64 (n : Int) : Word := BitVec.ofInt 64 n

/-- A host integer reduced modulo 2^32 (R72). -/
def reduce32 (n : Int) : Half := BitVec.ofInt 32 n

end Sys2Proof.Machine
end

