-- ==== Sys2Proof/Machine/State.lean ====
section
/-! DEFINITION. The state of the block: its registers, the command in flight on its port, and what the host drives on
the port and has received from it (spec 10_state.md R20 to R31; 30_encoding.md R75, R76). -/

namespace Sys2Proof.Machine

/-- The registers commands write (R20). Each is 64 bits, unsigned, with no sub-field. The fifth register, MULT, is a
constant that no command writes or returns: "a model takes it as a parameter of the machine, not as a state field"
(R26), so it is `Params.mult`. -/
structure Regs where
  /-- STATE, "the live LCG state" (R21). -/
  state : Word
  /-- SEED, "the state value at step 0" (R22). -/
  seed : Word
  /-- COUNT, the step counter (R23, R33). -/
  count : Word
  /-- INC, the increment (R24). -/
  inc : Word
deriving DecidableEq, Repr

/-- What the command port is doing. At most one command is in flight (R76): the port holds a request or a response,
never both. -/
inductive Phase where
  /-- No command is in flight, and one can be accepted (R75, R76). -/
  | ready
  /-- A command is accepted and has no response yet (R30). -/
  | computing (req : Request)
  /-- The response is held, its fields stable, until it is delivered (R75) or abandoned by reset (R213); it is offered,
  `rsp_valid` 1, while `rst` is 0 (R210). -/
  | answering (rsp : Response)
deriving DecidableEq, Repr

/-- The block's input signals at one rising edge of `clk` (R75). -/
structure Edge where
  /-- `rst`, synchronous reset, active high (R210). -/
  rst : Bool
  /-- `req_valid`: the host offers a command. -/
  reqValid : Bool
  /-- `req_op`, `req_a`, `req_b`, `req_c`: the fields of the offered command. -/
  req : Request
  /-- `rsp_ready`: the host can take the response. -/
  rspReady : Bool
deriving DecidableEq, Repr

/-- The state of the block and of its port. Plain data. `regs` and `phase` are the spec's; `input` and `delivered` are
the model's own record of the two sides of the port, since a step takes no argument and gives no output (log entry 3). -/
structure State where
  /-- The registers (R20). -/
  regs : Regs
  /-- The command in flight (R30, R76). -/
  phase : Phase
  /-- The input signals of the edges to come, the next edge first. -/
  input : List Edge
  /-- The responses the host has taken, the oldest first (R77). -/
  delivered : List Response
deriving DecidableEq, Repr

/-- There is no fault: no command raises an exception for any operand or register value (R190), an unassigned opcode is
answered `ST_ILLEGAL` and the block goes on (R191), and every command terminates (R218). So the type has no
constructor, which is safe: a step that cannot fault is claimed only where the spec says so. -/
inductive Fault where
deriving DecidableEq, Repr

/-- Why the model gives a command no meaning. -/
inductive Refusal where
  /-- Raised by an arm of `exec` for a command that has no meaning yet. Every command has one, so no arm raises it.
  Safe: a run that met it would stop. -/
  | notModelled (mnemonic : String)
deriving DecidableEq, Repr

/-- The registers at reset: STATE = SEED = `P_DEFAULT_SEED`, COUNT = 0, INC = `P_INC_RESET` (R31, R210). -/
def Regs.reset (P : Params) : Regs where
  state := P.defaultSeed
  seed := P.defaultSeed
  count := 0
  inc := P.incReset

/-- The machine right after reset: every register at its reset value, no command in flight (R31); the block waits for
its first command (R210), and nothing is on its port. -/
def State.reset : State where
  regs := Regs.reset Config.params
  phase := .ready
  input := []
  delivered := []

end Sys2Proof.Machine
end

