-- ==== Sys2Proof/Machine/Ops.lean ====
section
/-! DEFINITION. The operations every command is built from: the two arithmetic primitives (spec 40_arith.md R90, R91),
the response (00_scope.md R12), the moves of the port (30_encoding.md R75, R76), the one exception (60_exceptions.md
R191) and reset (70_reset_and_hazards.md R210, R213). -/

namespace Sys2Proof.Machine

/-! ## Arithmetic -/

/-- `a *64 b`: the exact product modulo 2^64; the upper 64 bits are discarded (R90). -/
def mul64 (a b : Word) : Word := BitVec.ofNat 64 (a.toNat * b.toNat)

/-- `a +64 b`: the sum modulo 2^64; the carry out of bit 63 is discarded (R91). -/
def add64 (a b : Word) : Word := BitVec.ofNat 64 (a.toNat + b.toNat)

/-- The affine map `x -> (g *64 x) +64 c` that the pair `(g, c)` denotes (R13). -/
def affine (g c x : Word) : Word := add64 (mul64 g x) c

/-! ## Responses -/

/-- `respond(st, q0, q1, q2)` (R12). -/
def respond (st : Status) (q0 q1 q2 : Word) : Response := ⟨st, q0, q1, q2⟩

/-- The response of a command that lists no result: every field it does not list is 0 (R70). -/
def respondNothing : Response := respond .ok 0 0 0

/-! ## The port -/

/-- A command is accepted: it is in flight (R75, R76). -/
def State.accept (req : Request) (s : State) : State := { s with phase := .computing req }

/-- A command's register writes take effect together with its response (R46), and the response is offered (R75). -/
def State.commit (r : Regs) (rsp : Response) (s : State) : State :=
  { s with regs := r, phase := .answering rsp }

/-- A response is delivered, and the block is ready for the next command (R76, R195). -/
def State.deliver (rsp : Response) (s : State) : State :=
  { s with phase := .ready, delivered := s.delivered ++ [rsp] }

/-- The inputs after the edge that has just passed. -/
def State.withInput (edges : List Edge) (s : State) : State := { s with input := edges }

/-- Completing a command: the pair of the registers it leaves and the response it gives (R77). -/
def answer (tx : Regs × Response) (s : State) : Host.Outcome State Fault Refusal :=
  .next (s.commit tx.1 tx.2)

/-! ## The exception and reset -/

/-- `raise ILLEGAL()`: no register is written and the response is `respond(ST_ILLEGAL, 0, 0, 0)`. Nothing else is
recorded, no mode changes and nothing vectors anywhere (R191, R194). -/
def illegal (r : Regs) : Regs × Response := (r, respond .illegal 0 0 0)

/-- Taking the exception ILLEGAL. There is no return from it: the block is ready for the next command as after any
response (R195). -/
def takeIllegal (s : State) : Host.Outcome State Fault Refusal := answer (illegal s.regs) s

/-- `rst` at a rising edge: every register takes its reset value, whatever the command in flight would have written;
that command is abandoned with no response, and none is offered (R210, R213). MULT does not change (R26). -/
def State.takeReset (s : State) : State :=
  { s with regs := Regs.reset Config.params, phase := .ready }

end Sys2Proof.Machine
end

