-- ==== Sys2Proof/Machine/Arith.lean ====
section
/-! DEFINITION. The arithmetic commands MUL, ADD, MULADD and the constructions from 32-bit halves (spec 40_arith.md). -/

namespace Sys2Proof.Machine

/-! ## Construction from 32-bit halves -/

/-- `*64` from 32-bit halves: `p` is exact, and only the low 32 bits of the cross terms reach the result (R93). -/
def mulHalves (a b : Word) : Word :=
  let aL := (lowHalf a).toNat
  let aH := (highHalf a).toNat
  let bL := (lowHalf b).toNat
  let bH := (highHalf b).toNat
  let p := aL * bL
  let cross := (aH * bL + aL * bH) % 2 ^ 32
  BitVec.ofNat 64 ((p + cross * 2 ^ 32) % 2 ^ 64)

/-- `+64` from 32-bit halves, with the carry test "did the sum become smaller than either addend" (R94). -/
def addHalves (a b : Word) : Word :=
  let aL := (lowHalf a).toNat
  let aH := (highHalf a).toNat
  let bL := (lowHalf b).toNat
  let bH := (highHalf b).toNat
  let sL := (aL + bL) % 2 ^ 32
  let carry := if sL < aL then 1 else 0
  let sH := (aH + bH + carry) % 2 ^ 32
  BitVec.ofNat 64 (sH * 2 ^ 32 + sL)

/-! ## The commands -/

/-- MUL: `respond(ST_OK, A *64 B, 0, 0)`; no register is written (R96). -/
def mulCommand (a b : Word) (r : Regs) : Regs × Response := (r, respond .ok (mul64 a b) 0 0)

/-- ADD: `respond(ST_OK, A +64 B, 0, 0)`; no register is written (R97). -/
def addCommand (a b : Word) (r : Regs) : Regs × Response := (r, respond .ok (add64 a b) 0 0)

/-- MULADD: `respond(ST_OK, (A *64 B) +64 C, 0, 0)`; no register is written (R98). -/
def muladdCommand (a b c : Word) (r : Regs) : Regs × Response := (r, respond .ok (affine a c b) 0 0)

/-- The meaning of MUL (R96). -/
def execMul (a b : Word) (s : State) : Host.Outcome State Fault Refusal := answer (mulCommand a b s.regs) s

/-- The meaning of ADD (R97). -/
def execAdd (a b : Word) (s : State) : Host.Outcome State Fault Refusal := answer (addCommand a b s.regs) s

/-- The meaning of MULADD (R98). -/
def execMuladd (a b c : Word) (s : State) : Host.Outcome State Fault Refusal := answer (muladdCommand a b c s.regs) s

end Sys2Proof.Machine
end

