-- ==== Sys2Proof/Machine/Output.lean ====
section
/-! DEFINITION. The output of the generator: the XSH-RR permutation of a state, its normalised binary64 value and the
response that carries the two (spec 41_transition_output.md R112 to R114; 30_encoding.md R62). -/

namespace Sys2Proof.Machine

/-! ## The output transform -/

/-- `rotr32(x, r)` for `r` in 0 to 31: `((x >> r) | (x << ((32 - r) mod 32))) mod 2^32` (R10). -/
def rotr32 (x : Half) (r : Nat) : Half := (x >>> r) ||| (x <<< ((32 - r) % 32))

/-- `shifted = trunc32((s ^ (s >> 18)) >> 27)`: the low 32 bits of a value of up to 37 bits (R112; conflict C1). -/
def shifted (s : Word) : Half := ((s ^^^ (s >>> 18)) >>> 27).setWidth 32

/-- `rotation = s >> 59`, in 0 to 31 (R112). -/
def rotAmount (s : Word) : Nat := (s >>> 59).toNat

/-- `XSHRR(s)`, the 32-bit output of a state (R112). -/
def xshrr (s : Word) : Half := rotr32 (shifted s) (rotAmount s)

/-! ## The normalisation -/

/-- The quotient `n / d` rounded to the nearest natural number, ties to even. -/
def divRoundEven (n d : Nat) : Nat :=
  if 2 * (n % d) < d ∨ (2 * (n % d) = d ∧ (n / d) % 2 = 0) then n / d else n / d + 1

/-- The least `k` of `k₀ ≤ k ≤ k₀ + fuel` with `d ≤ n × 2^k` (or the last, where there is none). -/
def scaleFrom (n d : Nat) : Nat → Nat → Nat
  | 0, k => k
  | fuel + 1, k => if d ≤ n * 2 ^ k then k else scaleFrom n d fuel (k + 1)

/-- The divisor of the normalisation, `2^32 - 1` (R114). -/
def normDivisor : Nat := 4294967295

/-- The binary64 bits of `NORM(o) = o / 4294967295`, the exact quotient rounded to nearest, ties to even (R114, D11).
`0` is `+0.0`. Any other quotient lies in `[2^-k, 2^(1-k))` for one `k` of 0 to 32, a normal binade: its significand
is the quotient times `2^(52+k)`, rounded, and a significand of `2^53` carries into the exponent field. -/
def normBits (o : Half) : Word :=
  if o.toNat = 0 then 0
  else
    let k := scaleFrom o.toNat normDivisor 32 0
    let significand := divRoundEven (o.toNat * 2 ^ (52 + k)) normDivisor
    BitVec.ofNat 64 ((1023 - k) * 2 ^ 52 + (significand - 2 ^ 52))

/-! ## The output response -/

/-- The response of PEEK, NEXT, SKIP and NTHNUM for a state: `Q0 = zext64(out32)`, `Q1` the bits of `NORM(out32)`,
`Q2 = 0` (R62). -/
def outputResponse (s : Word) : Response := respond .ok ((xshrr s).setWidth 64) (normBits (xshrr s)) 0

end Sys2Proof.Machine
end

