-- ==== Sys2Proof/Machine/Transition.lean ====
section
/-! DEFINITION. The one-step transition and the commands STEP, PEEK, NEXT (spec 41_transition_output.md). -/

namespace Sys2Proof.Machine

/-- The one-step transition `T_{m,i}(x) = (m *64 x) +64 i` (R13, R110). -/
def transition (m i x : Word) : Word := affine m i x

/-- STEP: `STATE <- (MULT *64 STATE) +64 INC`, `COUNT <- COUNT +64 1`, no result (R111). -/
def stepCommand (P : Params) (r : Regs) : Regs × Response :=
  ({ r with state := transition P.mult r.inc r.state, count := add64 r.count 1 }, respondNothing)

/-- PEEK: the output of the current state; no register is written (R115). -/
def peekCommand (r : Regs) : Regs × Response := (r, outputResponse r.state)

/-- NEXT: one step, and the output of the NEW state (R116). -/
def nextCommand (P : Params) (r : Regs) : Regs × Response :=
  let s' := transition P.mult r.inc r.state
  ({ r with state := s', count := add64 r.count 1 }, outputResponse s')

/-- The meaning of STEP (R111). -/
def execStep (s : State) : Host.Outcome State Fault Refusal := answer (stepCommand Config.params s.regs) s

/-- The meaning of PEEK (R115). -/
def execPeek (s : State) : Host.Outcome State Fault Refusal := answer (peekCommand s.regs) s

/-- The meaning of NEXT (R116). -/
def execNext (s : State) : Host.Outcome State Fault Refusal := answer (nextCommand Config.params s.regs) s

end Sys2Proof.Machine
end

