-- ==== Sys2Proof/Machine/Jump.lean ====
section
/-! DEFINITION. The jump-ahead calculator and the commands SKIP, NTHNUM, FFWD, JCALC (spec 42_jump.md). -/

namespace Sys2Proof.Machine

/-! ## The calculator -/

/-- The calculator's working registers (R29). They are not architectural: no command reads or writes them, and they hold
nothing between commands that a rule reads. -/
structure JumpRegs where
  /-- The multiplier of the accumulated transform. -/
  g : Word
  /-- The increment of the accumulated transform. -/
  c : Word
  /-- `curMultiplier`, the multiplier of the running doubled transform. -/
  curM : Word
  /-- `curIncrement`, its increment. -/
  curI : Word
  /-- The remaining distance. -/
  d : Word
deriving DecidableEq, Repr

/-- One round: fold the running transform in if bit 0 of the distance is set, then square it (the increment from the
multiplier before it is squared) and shift the distance right by one (R130). -/
def jumpRound (w : JumpRegs) : JumpRegs where
  g := if w.d.getLsbD 0 then mul64 w.curM w.g else w.g
  c := if w.d.getLsbD 0 then add64 (mul64 w.curM w.c) w.curI else w.c
  curM := mul64 w.curM w.curM
  curI := mul64 w.curI (add64 w.curM 1)
  d := w.d >>> 1

/-- The loop of R130: rounds while the distance is not 0, at most `fuel` of them. -/
def jumpRounds : Nat → JumpRegs → JumpRegs
  | 0, w => w
  | fuel + 1, w => if w.d = 0 then w else jumpRounds fuel (jumpRound w)

/-- `JUMP(d, m, i)`, the pair `(G, C)` of the affine transform equal to `d` steps of `T_{m,i}`. The loop ends within 64
rounds (R130, R141). -/
def jump (d m i : Word) : Word × Word :=
  let w := jumpRounds 64 ⟨1, 0, m, i, d⟩
  (w.g, w.c)

/-- The state a jump of distance `d` leads to from the state `x`: `(G *64 x) +64 C` (R132). -/
def jumpFrom (d m i x : Word) : Word := affine (jump d m i).1 (jump d m i).2 x

/-! ## The commands -/

/-- SKIP n: jump the distance, advance COUNT by the distance as given, and the output of the new state (R134; C11). -/
def skipCommand (P : Params) (n : Word) (r : Regs) : Regs × Response :=
  let s' := jumpFrom n P.mult r.inc r.state
  ({ r with state := s', count := add64 r.count n }, outputResponse s')

/-- `P_NTHNUM_PRESTEP` transitions, 0 or 1 of them (R135). -/
def prestep (p : Fin 2) (m i x : Word) : Word := if p = 1 then transition m i x else x

/-- NTHNUM n: from SEED, the discarded transition of `P_NTHNUM_PRESTEP = 1`, then a jump of `n`; COUNT becomes
`p +64 n`; the output of the new state (R135; C2). -/
def nthnumCommand (P : Params) (n : Word) (r : Regs) : Regs × Response :=
  let s0 := prestep P.nthnumPrestep P.mult r.inc r.seed
  let s' := jumpFrom n P.mult r.inc s0
  ({ r with state := s', count := add64 (BitVec.ofNat 64 P.nthnumPrestep.val) n }, outputResponse s')

/-- FFWD d: jump the distance, with no result (R132; C11). -/
def ffwdCommand (P : Params) (d : Word) (r : Regs) : Regs × Response :=
  ({ r with state := jumpFrom d P.mult r.inc r.state, count := add64 r.count d }, respondNothing)

/-- JCALC d: the pair of the calculator; no register is written (R133). -/
def jcalcCommand (P : Params) (d : Word) (r : Regs) : Regs × Response :=
  (r, respond .ok (jump d P.mult r.inc).1 (jump d P.mult r.inc).2 0)

/-- The meaning of SKIP (R134). -/
def execSkip (n : Word) (s : State) : Host.Outcome State Fault Refusal := answer (skipCommand Config.params n s.regs) s

/-- The meaning of NTHNUM (R135). -/
def execNthnum (n : Word) (s : State) : Host.Outcome State Fault Refusal :=
  answer (nthnumCommand Config.params n s.regs) s

/-- The meaning of FFWD (R132). -/
def execFfwd (d : Word) (s : State) : Host.Outcome State Fault Refusal := answer (ffwdCommand Config.params d s.regs) s

/-- The meaning of JCALC (R133). -/
def execJcalc (d : Word) (s : State) : Host.Outcome State Fault Refusal := answer (jcalcCommand Config.params d s.regs) s

end Sys2Proof.Machine
end

