-- ==== Sys2Proof/Machine/Session.lean ====
section
/-! DEFINITION. The register-access commands: seed, increment, counter, save and load (spec 43_session.md). -/

namespace Sys2Proof.Machine

/-- SETSEED: SEED and STATE take the operand, COUNT takes 0, together; INC is unchanged (R160). -/
def setseedCommand (seed : Word) (r : Regs) : Regs × Response :=
  ({ r with seed := seed, state := seed, count := 0 }, respondNothing)

/-- GETSEED (R161). -/
def getseedCommand (r : Regs) : Regs × Response := (r, respond .ok r.seed 0 0)

/-- SETINC: INC takes the operand and nothing else changes (R162). -/
def setincCommand (inc : Word) (r : Regs) : Regs × Response := ({ r with inc := inc }, respondNothing)

/-- GETINC (R163). -/
def getincCommand (r : Regs) : Regs × Response := (r, respond .ok r.inc 0 0)

/-- SETCOUNT: STATE takes the state `count` steps from SEED under the current INC, COUNT takes the operand (R164). -/
def setcountCommand (P : Params) (count : Word) (r : Regs) : Regs × Response :=
  ({ r with state := jumpFrom count P.mult r.inc r.seed, count := count }, respondNothing)

/-- GETCOUNT (R165). -/
def getcountCommand (r : Regs) : Regs × Response := (r, respond .ok r.count 0 0)

/-- SAVE: the persisted tuple (SEED, COUNT, INC), in this fixed order (R166). -/
def saveCommand (r : Regs) : Regs × Response := (r, respond .ok r.seed r.count r.inc)

/-- LOAD: SEED, COUNT and INC take the tuple, and STATE the state `count` steps from the loaded seed under the LOADED
increment (R167; D14). -/
def loadCommand (P : Params) (seed count inc : Word) (_r : Regs) : Regs × Response :=
  ({ state := jumpFrom count P.mult inc seed, seed := seed, count := count, inc := inc }, respondNothing)

/-- The meaning of SETSEED (R160). -/
def execSetseed (seed : Word) (s : State) : Host.Outcome State Fault Refusal := answer (setseedCommand seed s.regs) s

/-- The meaning of GETSEED (R161). -/
def execGetseed (s : State) : Host.Outcome State Fault Refusal := answer (getseedCommand s.regs) s

/-- The meaning of SETINC (R162). -/
def execSetinc (inc : Word) (s : State) : Host.Outcome State Fault Refusal := answer (setincCommand inc s.regs) s

/-- The meaning of GETINC (R163). -/
def execGetinc (s : State) : Host.Outcome State Fault Refusal := answer (getincCommand s.regs) s

/-- The meaning of SETCOUNT (R164). -/
def execSetcount (count : Word) (s : State) : Host.Outcome State Fault Refusal :=
  answer (setcountCommand Config.params count s.regs) s

/-- The meaning of GETCOUNT (R165). -/
def execGetcount (s : State) : Host.Outcome State Fault Refusal := answer (getcountCommand s.regs) s

/-- The meaning of SAVE (R166). -/
def execSave (s : State) : Host.Outcome State Fault Refusal := answer (saveCommand s.regs) s

/-- The meaning of LOAD (R167). -/
def execLoad (seed count inc : Word) (s : State) : Host.Outcome State Fault Refusal :=
  answer (loadCommand Config.params seed count inc s.regs) s

end Sys2Proof.Machine
end

