-- ==== Sys2Proof/Machine/Dispatch.lean ====
section
/-! DEFINITION. The meaning of each command, one arm per constructor of `Instr`. -/

namespace Sys2Proof.Machine

/-- Runs one command. -/
def exec (i : Instr) (s : State) : Host.Outcome State Fault Refusal :=
  match i with
  | .mul a b => Sys2Proof.Machine.execMul a b s
  | .add a b => Sys2Proof.Machine.execAdd a b s
  | .muladd a b c => Sys2Proof.Machine.execMuladd a b c s
  | .step => Sys2Proof.Machine.execStep s
  | .peek => Sys2Proof.Machine.execPeek s
  | .next => Sys2Proof.Machine.execNext s
  | .skip n => Sys2Proof.Machine.execSkip n s
  | .nthnum n => Sys2Proof.Machine.execNthnum n s
  | .ffwd d => Sys2Proof.Machine.execFfwd d s
  | .jcalc d => Sys2Proof.Machine.execJcalc d s
  | .setseed seed => Sys2Proof.Machine.execSetseed seed s
  | .getseed => Sys2Proof.Machine.execGetseed s
  | .setinc inc => Sys2Proof.Machine.execSetinc inc s
  | .getinc => Sys2Proof.Machine.execGetinc s
  | .setcount count => Sys2Proof.Machine.execSetcount count s
  | .getcount => Sys2Proof.Machine.execGetcount s
  | .save => Sys2Proof.Machine.execSave s
  | .load seed count inc => Sys2Proof.Machine.execLoad seed count inc s

end Sys2Proof.Machine
end

