-- ==== Sys2Proof/Machine/Flags.lean ====
section
/-! DEFINITION. The block has no flags: no operation sets one, and carry and overflow are discarded (spec 10_state.md
R25; 40_arith.md R91, R92). Its only status is the field ST of a response (30_encoding.md R61, R63). -/

namespace Sys2Proof.Machine

/-- The 8-bit code of a status: `ST_OK` is `0x00`, `ST_ILLEGAL` is `0x01` (R63). -/
def statusCode : Status → Byte
  | .ok => 0x00
  | .illegal => 0x01

/-- The 200-bit packed word of a response: ST in [7:0], Q0 in [71:8], Q1 in [135:72], Q2 in [199:136] (R61). -/
def packResponse (r : Response) : BitVec 200 :=
  (r.q2.setWidth 200 <<< 136) ||| (r.q1.setWidth 200 <<< 72) ||| (r.q0.setWidth 200 <<< 8) |||
    (statusCode r.st).setWidth 200

end Sys2Proof.Machine
end

