-- ==== Sys2Proof/Machine/Port.lean ====
section
/-! DEFINITION. The command port: its output signals, and what one edge of its inputs does (spec 30_encoding.md R75 to
R77; 70_reset_and_hazards.md R210, R213, R216). -/

namespace Sys2Proof.Machine

/-! ## Output signals (R75), as the next edge of the inputs meets them -/

/-- `rst` at the next edge of the inputs; 0 where no edge is listed (log entry 15). -/
def State.rstNext (s : State) : Bool :=
  match s.input with
  | [] => false
  | e :: _ => e.rst

/-- `req_ready`: 0 from the edge that accepts a command until the edge that delivers its response (R76), and 1 between
commands; while `rst` is 1 no command is accepted (R210), and what the signal then shows between commands is a free value
(log entry 17). -/
def State.reqReady (s : State) : Bool :=
  match s.phase with
  | .ready => if s.rstNext then Config.reqReadyInReset s.input.length else true
  | .computing _ => false
  | .answering _ => false

/-- The response the block holds from the end of a command until its delivery. -/
def State.held (s : State) : Option Response :=
  match s.phase with
  | .ready => none
  | .computing _ => none
  | .answering rsp => some rsp

/-- The response on `rsp_st`, `rsp_r0`, `rsp_r1`, `rsp_r2` while `rsp_valid` is 1: the one held, and none while `rst` is 1
(R210). -/
def State.offered (s : State) : Option Response := if s.rstNext then none else s.held

/-- `rsp_valid`: the block offers a response. -/
def State.rspValid (s : State) : Bool := s.offered.isSome

/-! ## One step of the port -/

/-- The command in flight is decoded and run; an unassigned opcode takes the exception ILLEGAL (R191, R193). -/
def runCommand (req : Request) (s : State) : Host.Outcome State Fault Refusal :=
  match decode req with
  | .ok i => exec i s
  | .error _ => takeIllegal s

/-- A rising edge with `rst` 0 at a block that is not computing, its inputs already taken off the list. A request is
accepted where `req_valid` and `req_ready` are both 1, a response delivered where `rsp_valid` and `rsp_ready` are
both 1 (R75). A request offered while a command is in flight is not accepted: the host must hold it (R216). -/
def transfer (e : Edge) (s : State) : State :=
  match s.phase with
  | .ready => if e.reqValid then s.accept e.req else s
  | .computing _ => s
  | .answering rsp => if e.rspReady then s.deliver rsp else s

/-- One edge of the inputs. Reset takes precedence over everything (R193). While a command is computing, an edge moves
nothing (`req_ready` and `rsp_valid` are 0), so the command is run first and the edge is kept: the list holds no
edge that passes unseen during a computation, since time is not state (R217; log entry 4). -/
def onEdge (e : Edge) (rest : List Edge) (s : State) : Host.Outcome State Fault Refusal :=
  if e.rst then .next (s.takeReset.withInput rest)
  else
    match s.phase with
    | .computing req => runCommand req s
    | .ready => .next (transfer e (s.withInput rest))
    | .answering _ => .next (transfer e (s.withInput rest))

/-- With nothing on its inputs the block finishes the command in flight (R218), and is idle and keeps its registers
otherwise (R200). -/
def onQuiet (s : State) : Host.Outcome State Fault Refusal :=
  match s.phase with
  | .computing req => runCommand req s
  | .ready => .next s
  | .answering _ => .next s

/-- Puts a request in flight, as if the port had just accepted it: the next step runs it. A reset at the head of the
inputs would abandon it, so such edges are dropped. -/
def placeRequest (req : Request) (s : State) : State :=
  (s.accept req).withInput (s.input.dropWhile fun e => e.rst)

end Sys2Proof.Machine
end

