-- ==== Sys2Proof/Machine/Step.lean ====
section
/-! DEFINITION. The step function. The block fetches nothing: a command comes to it on its port (spec 20_memory.md R42).
-/

namespace Sys2Proof.Machine

/-- One step: the next edge of the port's inputs, or, where there is none, the block's own work. Accepting a command,
running it and delivering its response are three steps. -/
def step (s : State) : Host.Outcome State Fault Refusal :=
  match s.input with
  | [] => onQuiet s
  | e :: rest => onEdge e rest s

/-- The state with the request of a table word in flight, so that the next step runs exactly it (log entry 6). -/
def State.withFetchWord (s : State) (nbits w : Nat) : State :=
  placeRequest (requestOfTableWord nbits w) s

end Sys2Proof.Machine
end

