-- ==== Sys2Proof/Machine/Transact.lean ====
section
/-! DEFINITION. The block at transaction level: "a function from (register state, request) to (register state,
response), applied once per accepted command" (spec 30_encoding.md R77), for every value of the build parameters
(00_scope.md R7). `exec` is this function at the parameters of this hardware, on the port. -/

namespace Sys2Proof.Machine

/-- What a command does to the registers and what it answers, on a build with the parameters `P`. -/
def command (P : Params) (i : Instr) (r : Regs) : Regs × Response :=
  match i with
  | .mul a b => mulCommand a b r
  | .add a b => addCommand a b r
  | .muladd a b c => muladdCommand a b c r
  | .step => stepCommand P r
  | .peek => peekCommand r
  | .next => nextCommand P r
  | .skip n => skipCommand P n r
  | .nthnum n => nthnumCommand P n r
  | .ffwd d => ffwdCommand P d r
  | .jcalc d => jcalcCommand P d r
  | .setseed seed => setseedCommand seed r
  | .getseed => getseedCommand r
  | .setinc inc => setincCommand inc r
  | .getinc => getincCommand r
  | .setcount count => setcountCommand P count r
  | .getcount => getcountCommand r
  | .save => saveCommand r
  | .load seed count inc => loadCommand P seed count inc r

/-- One transaction: decoding happens first, and an unassigned opcode is ILLEGAL before any operand is read (R193). -/
def transact (P : Params) (req : Request) (r : Regs) : Regs × Response :=
  match decode req with
  | .ok i => command P i r
  | .error _ => illegal r

/-- Commands one at a time, in the order they are accepted (R48), and their responses in that order (R77). -/
def transactAll (P : Params) : List Request → Regs → Regs × List Response
  | [], r => (r, [])
  | req :: rest, r =>
    let tx := transact P req r
    let more := transactAll P rest tx.1
    (more.1, tx.2 :: more.2)

end Sys2Proof.Machine
end

