-- ==== Sys2Proof/Machine/Assembler.lean ====
section
/-! DEFINITION. The assembler syntax and the pseudo-commands of the host (spec 30_encoding.md R73, R74). Tooling: no
register of the block depends on it. -/

namespace Sys2Proof.Machine

/-! ## What a source line stands for -/

/-- One command of a host's program, as a function of `Q0` of the response before it (only SETSEEDLO and SETSEEDHI
look at it, R74). -/
abbrev HostStep := Word → Instr

/-- A command that looks at no response. -/
def plain (i : Instr) : HostStep := fun _ => i

/-- `REWIND n`: `FFWD (2^64 - n) mod 2^64` (R74). -/
def rewind (n : Word) : List HostStep := [plain (.ffwd (BitVec.ofNat 64 (2 ^ 64 - n.toNat)))]

/-- `RESTART`: `SETCOUNT 0` (R74). -/
def restart : List HostStep := [plain (.setcount 0)]

/-- `CONSTRUCT s, i`: `LOAD s, 0, i` (R74). -/
def construct (s i : Word) : List HostStep := [plain (.load s 0 i)]

/-- `SETSEEDLO lo`: GETSEED, then SETSEED with the low half replaced (R74). An explicit zero is zero (D21). -/
def setseedlo (lo : Half) : List HostStep :=
  [plain .getseed, fun q0 => .setseed ((q0 &&& 0xffffffff00000000) ||| lo.setWidth 64)]

/-- `SETSEEDHI hi`: GETSEED, then SETSEED with the high half replaced (R74). -/
def setseedhi (hi : Half) : List HostStep :=
  [plain .getseed, fun q0 => .setseed ((hi.setWidth 64 <<< 32) ||| (q0 &&& 0x00000000ffffffff))]

/-- A host's program on the block: each command is sent after the response to the one before it (R76, R216), and the
two commands of SETSEEDLO are two transactions (R74). `q0` is the last response's. -/
def runHost (P : Params) : List HostStep → Word → Regs → Regs × List Response
  | [], _, r => (r, [])
  | h :: hs, q0, r =>
    let tx := command P (h q0) r
    let more := runHost P hs tx.2.q0 tx.1
    (more.1, tx.2 :: more.2)

/-! ## Numerals (R73) -/

/-- The value of a digit, decimal or hexadecimal. -/
def digitValue (c : Char) : Option Nat :=
  if '0' ≤ c ∧ c ≤ '9' then some (c.toNat - '0'.toNat)
  else if 'a' ≤ c ∧ c ≤ 'f' then some (c.toNat - 'a'.toNat + 10)
  else if 'A' ≤ c ∧ c ≤ 'F' then some (c.toNat - 'A'.toNat + 10)
  else none

/-- Reads digits of a base; a `_` separator has no value. At least one digit is needed. -/
def readDigits (base : Nat) : List Char → Nat → Bool → Option Nat
  | [], acc, seen => if seen then some acc else none
  | c :: cs, acc, seen =>
    if c = '_' then readDigits base cs acc seen
    else
      match digitValue c with
      | some v => if v < base then readDigits base cs (acc * base + v) true else none
      | none => none

/-- A numeral: decimal, or hexadecimal after `0x`, with a minus sign before it where the value is negative. -/
def readNumeral : List Char → Option Int
  | '-' :: '0' :: 'x' :: cs => (readDigits 16 cs 0 false).map fun n => -(n : Int)
  | '-' :: cs => (readDigits 10 cs 0 false).map fun n => -(n : Int)
  | '0' :: 'x' :: cs => (readDigits 16 cs 0 false).map fun n => (n : Int)
  | cs => (readDigits 10 cs 0 false).map fun n => (n : Int)

/-! ## Lines (R73) -/

/-- Why a source line is refused. -/
inductive AsmError where
  /-- The mnemonic is none of R64 and R74. -/
  | unknownMnemonic
  /-- The operand count is not the number of fields the command lists. -/
  | wrongOperandCount
  /-- An operand is no numeral. -/
  | badNumeral
deriving DecidableEq, Repr

/-- The commands of a mnemonic with its operands. The operands fill A, B, C in order, each reduced modulo 2^64 (R72,
R73); another operand count is refused. `SETINC` with no operand is no command at all (R74). -/
def assembleCommand (mnemonic : String) (ops : List Int) : Except AsmError (List HostStep) :=
  match mnemonic with
  | "MUL" => two fun a b => [plain (.mul a b)]
  | "ADD" => two fun a b => [plain (.add a b)]
  | "MULADD" => three fun a b c => [plain (.muladd a b c)]
  | "STEP" => zero [plain .step]
  | "PEEK" => zero [plain .peek]
  | "NEXT" => zero [plain .next]
  | "SKIP" => one fun n => [plain (.skip (reduce64 n))]
  | "NTHNUM" => one fun n => [plain (.nthnum (reduce64 n))]
  | "FFWD" => one fun d => [plain (.ffwd (reduce64 d))]
  | "JCALC" => one fun d => [plain (.jcalc (reduce64 d))]
  | "SETSEED" => one fun v => [plain (.setseed (reduce64 v))]
  | "GETSEED" => zero [plain .getseed]
  | "SETINC" => if ops = [] then .ok [] else one fun v => [plain (.setinc (reduce64 v))]
  | "GETINC" => zero [plain .getinc]
  | "SETCOUNT" => one fun v => [plain (.setcount (reduce64 v))]
  | "GETCOUNT" => zero [plain .getcount]
  | "SAVE" => zero [plain .save]
  | "LOAD" => three fun a b c => [plain (.load a b c)]
  | "REWIND" => one fun n => rewind (reduce64 n)
  | "RESTART" => zero restart
  | "CONSTRUCT" => two construct
  | "SETSEEDLO" => one fun v => setseedlo (reduce32 v)
  | "SETSEEDHI" => one fun v => setseedhi (reduce32 v)
  | _ => .error .unknownMnemonic
where
  /-- No operand. -/
  zero (p : List HostStep) : Except AsmError (List HostStep) :=
    match ops with
    | [] => .ok p
    | _ => .error .wrongOperandCount
  /-- One operand, not yet reduced. -/
  one (f : Int → List HostStep) : Except AsmError (List HostStep) :=
    match ops with
    | [x] => .ok (f x)
    | _ => .error .wrongOperandCount
  /-- Two operands. -/
  two (f : Word → Word → List HostStep) : Except AsmError (List HostStep) :=
    match ops with
    | [x, y] => .ok (f (reduce64 x) (reduce64 y))
    | _ => .error .wrongOperandCount
  /-- Three operands. -/
  three (f : Word → Word → Word → List HostStep) : Except AsmError (List HostStep) :=
    match ops with
    | [x, y, z] => .ok (f (reduce64 x) (reduce64 y) (reduce64 z))
    | _ => .error .wrongOperandCount

/-- A character between the parts of a line. -/
def isBlank (c : Char) : Bool := c = ' ' || c = '\t' || c = '\r'

/-- A part of a line without the blanks around it. -/
def trimBlanks (cs : List Char) : List Char :=
  ((cs.dropWhile isBlank).reverse.dropWhile isBlank).reverse

/-- The parts of a text between the separators. -/
def splitAt (sep : Char) : List Char → List (List Char)
  | [] => [[]]
  | c :: cs =>
    match splitAt sep cs with
    | [] => [[c]]
    | p :: ps => if c = sep then [] :: p :: ps else (c :: p) :: ps

/-- The operands of a line, separated by commas. -/
def readOperands (cs : List Char) : Option (List Int) :=
  if cs = [] then some [] else (splitAt ',' cs).mapM fun part => readNumeral (trimBlanks part)

/-- One source line: `MNEMONIC [op1 [, op2 [, op3]]]`; text after `;` is a comment (R73). A line with nothing on it is
no command. -/
def assembleLine (line : List Char) : Except AsmError (List HostStep) :=
  let code := trimBlanks (line.takeWhile fun c => c ≠ ';')
  if code = [] then .ok []
  else
    match readOperands (trimBlanks (code.dropWhile fun c => !isBlank c)) with
    | some ops => assembleCommand (String.ofList (code.takeWhile fun c => !isBlank c)) ops
    | none => .error .badNumeral

/-- A source text, one command per line (R73). -/
def assemble (source : List Char) : Except AsmError (List HostStep) :=
  (splitAt '\n' source).foldr
    (fun line acc => match assembleLine line, acc with
      | .ok p, .ok ps => .ok (p ++ ps)
      | .error e, _ => .error e
      | .ok _, .error e => .error e)
    (.ok [])

end Sys2Proof.Machine
end

