-- ==== Sys2Proof/Machine/Image.lean ====
section
/-! DEFINITION. The persisted image as a host stores it: six 32-bit words, and their bytes (spec 30_encoding.md R71;
20_memory.md R44). Nothing inside the block depends on it. -/

namespace Sys2Proof.Machine

/-- The six words of the tuple (seed, stepCount, increment), each value low half first (R71). -/
def imageWords (seed count inc : Word) : List Half :=
  [lowHalf seed, highHalf seed, lowHalf count, highHalf count, lowHalf inc, highHalf inc]

/-- The image of a SAVE response: `Q0 = seed`, `Q1 = stepCount`, `Q2 = increment` (R71, R166). -/
def imageOfSave (rsp : Response) : List Half := imageWords rsp.q0 rsp.q1 rsp.q2

/-- The LOAD command of an image (R71). An image has exactly six words: one with another number of fields has no
meaning here (93_implementation_defined.md U8). -/
def loadOfImage : List Half → Option Instr
  | [w0, w1, w2, w3, w4, w5] => some (.load (ofHalves w0 w1) (ofHalves w2 w3) (ofHalves w4 w5))
  | _ => none

/-- The bytes of a 32-bit word, least-significant byte first (R44). -/
def bytesOfHalf (w : Half) : List Byte :=
  [w.extractLsb' 0 8, w.extractLsb' 8 8, w.extractLsb' 16 8, w.extractLsb' 24 8]

/-- The bytes of an image, little-endian throughout (R44). -/
def imageBytes : List Half → List Byte
  | [] => []
  | w :: ws => bytesOfHalf w ++ imageBytes ws

/-- The 32-bit word of four bytes, the least-significant first (R44). -/
def halfOfBytes (b0 b1 b2 b3 : Byte) : Half :=
  BitVec.ofNat 32 (b0.toNat + 2 ^ 8 * b1.toNat + 2 ^ 16 * b2.toNat + 2 ^ 24 * b3.toNat)

/-- The 32-bit words of a little-endian byte string (R44); none where the bytes are no whole number of words. -/
def wordsOfBytes : List Byte → Option (List Half)
  | [] => some []
  | b0 :: b1 :: b2 :: b3 :: bs => (wordsOfBytes bs).map fun ws => halfOfBytes b0 b1 b2 b3 :: ws
  | _ => none

end Sys2Proof.Machine
end

