-- ==== Sys2Proof/Safety.lean ====
section
/-! DEFINITION. What claims about the block are stated in terms of: consistency, well-formed responses, the host's
edges, and the value of a binary64 pattern. -/

namespace Sys2Proof.Machine

/-! ## The consistency invariant -/

/-- `T_{m,i}^k`, the transition composed with itself `k` times (R13). -/
def transitionPow (m i : Word) (k : Nat) (x : Word) : Word := (transition m i)^[k] x

/-- The register set is consistent: `STATE = T_{MULT,INC}^COUNT(SEED)` (R27). -/
def Consistent (P : Params) (r : Regs) : Prop :=
  r.state = transitionPow P.mult r.inc r.count.toNat r.seed

/-! ## Responses -/

/-- A response the block may give: an ILLEGAL one carries no result (R191). -/
def wellFormedResponse (rsp : Response) : Prop :=
  rsp.st = .illegal → rsp.q0 = 0 ∧ rsp.q1 = 0 ∧ rsp.q2 = 0

/-- Every response the block holds (so every one it offers) or has delivered is well-formed. -/
def ResponsesWellFormed (s : State) : Prop :=
  (∀ rsp, s.held = some rsp → wellFormedResponse rsp) ∧ ∀ rsp ∈ s.delivered, wellFormedResponse rsp

/-- No run so far met an unassigned opcode: the premise the spec asks of a claim about a program (U1). -/
def NoIllegalResponse (s : State) : Prop :=
  (∀ rsp, s.held = some rsp → rsp.st = .ok) ∧ ∀ rsp ∈ s.delivered, rsp.st = .ok

/-! ## The columns of the command table (R64) -/

/-- The command's row lists the field A as an operand. -/
def listsA : Instr → Bool
  | .mul _ _ | .add _ _ | .muladd _ _ _ | .skip _ | .nthnum _ | .ffwd _ | .jcalc _ => true
  | .setseed _ | .setinc _ | .setcount _ | .load _ _ _ => true
  | .step | .peek | .next | .getseed | .getinc | .getcount | .save => false

/-- The command's row lists the field B as an operand. -/
def listsB : Instr → Bool
  | .mul _ _ | .add _ _ | .muladd _ _ _ | .load _ _ _ => true
  | .skip _ | .nthnum _ | .ffwd _ | .jcalc _ | .setseed _ | .setinc _ | .setcount _ => false
  | .step | .peek | .next | .getseed | .getinc | .getcount | .save => false

/-- The command's row lists the field C as an operand. -/
def listsC : Instr → Bool
  | .muladd _ _ _ | .load _ _ _ => true
  | .mul _ _ | .add _ _ | .skip _ | .nthnum _ | .ffwd _ | .jcalc _ | .setseed _ | .setinc _ | .setcount _ => false
  | .step | .peek | .next | .getseed | .getinc | .getcount | .save => false

/-- How many fields the command's row lists as operands: the operand count of its source line (R73). -/
def operandCount (i : Instr) : Nat := (listsA i).toNat + (listsB i).toNat + (listsC i).toNat

/-- The command's row lists SEED as written. -/
def writesSeed : Instr → Bool
  | .setseed _ | .load _ _ _ => true
  | .mul _ _ | .add _ _ | .muladd _ _ _ | .step | .peek | .next | .skip _ | .nthnum _ | .ffwd _ | .jcalc _ => false
  | .getseed | .setinc _ | .getinc | .setcount _ | .getcount | .save => false

/-- The command's row lists INC as written. -/
def writesInc : Instr → Bool
  | .setinc _ | .load _ _ _ => true
  | .mul _ _ | .add _ _ | .muladd _ _ _ | .step | .peek | .next | .skip _ | .nthnum _ | .ffwd _ | .jcalc _ => false
  | .setseed _ | .getseed | .getinc | .setcount _ | .getcount | .save => false

/-- The command's row lists STATE and COUNT as written (no row lists one of the two alone). -/
def writesStateCount : Instr → Bool
  | .step | .next | .skip _ | .nthnum _ | .ffwd _ | .setseed _ | .setcount _ | .load _ _ _ => true
  | .mul _ _ | .add _ _ | .muladd _ _ _ | .peek | .jcalc _ => false
  | .getseed | .setinc _ | .getinc | .getcount | .save => false

/-- The command's row lists Q0 as a result. -/
def listsQ0 : Instr → Bool
  | .mul _ _ | .add _ _ | .muladd _ _ _ | .peek | .next | .skip _ | .nthnum _ | .jcalc _ => true
  | .getseed | .getinc | .getcount | .save => true
  | .step | .ffwd _ | .setseed _ | .setinc _ | .setcount _ | .load _ _ _ => false

/-- The command's row lists Q1 as a result. -/
def listsQ1 : Instr → Bool
  | .peek | .next | .skip _ | .nthnum _ | .jcalc _ | .save => true
  | .mul _ _ | .add _ _ | .muladd _ _ _ | .step | .ffwd _ | .setseed _ => false
  | .getseed | .setinc _ | .getinc | .setcount _ | .getcount | .load _ _ _ => false

/-- The command's row lists Q2 as a result. -/
def listsQ2 : Instr → Bool
  | .save => true
  | .mul _ _ | .add _ _ | .muladd _ _ _ | .step | .peek | .next | .skip _ | .nthnum _ | .ffwd _ | .jcalc _ => false
  | .setseed _ | .getseed | .setinc _ | .getinc | .setcount _ | .getcount | .load _ _ _ => false

/-- How far the command advances COUNT, where it advances it (R23): the commands that are not idempotent (R47). -/
def advanceOf : Instr → Option Word
  | .step | .next => some 1
  | .skip d | .ffwd d => some d
  | .mul _ _ | .add _ _ | .muladd _ _ _ | .peek | .nthnum _ | .jcalc _ => none
  | .setseed _ | .getseed | .setinc _ | .getinc | .setcount _ | .getcount | .save | .load _ _ _ => none

/-! ## The host's side of the port -/

/-- The next edge of the inputs, if there is one, has `rst` at 0. -/
def NoResetNext (s : State) : Prop := ∀ e rest, s.input = e :: rest → e.rst = false

/-- An edge at which the host offers a command and takes no response. -/
def offerEdge (req : Request) : Edge := ⟨false, true, req, false⟩

/-- An edge at which the host offers no command and takes the response. -/
def takeEdge : Edge := ⟨false, false, ⟨0, 0, 0, 0⟩, true⟩

/-- The edges of a host that offers a command, waits for its response and takes it (R216). -/
def serveEdges (req : Request) : List Edge := [offerEdge req, takeEdge]

/-! ## binary64 -/

/-- The exponent field, bits [62:52] (R62). -/
def f64Exponent (b : Word) : Nat := (b.extractLsb' 52 11).toNat

/-- The fraction field, bits [51:0] (R62). -/
def f64Fraction (b : Word) : Nat := (b.extractLsb' 0 52).toNat

/-- The pattern is a number: neither an infinity nor a NaN. -/
def f64Finite (b : Word) : Prop := f64Exponent b ≠ 2047

/-- The value of a finite binary64 pattern: sign in bit 63, subnormal where the exponent field is 0 (R62). -/
def f64Value (b : Word) : ℚ :=
  (if b.getLsbD 63 then -1 else 1) *
    (if f64Exponent b = 0 then (f64Fraction b : ℚ) * 2 ^ (-1074 : ℤ)
     else ((2 ^ 52 + f64Fraction b : ℕ) : ℚ) * 2 ^ ((f64Exponent b : ℤ) - 1075))

end Sys2Proof.Machine
end

