-- ==== Sys2Proof/Certificates/Slice0/Obligations.lean ====
section
/-! DEFINITION. The statements for the provers. Each docstring names the rule of the spec it formalises. Where a statement
quantifies over `P : Params`, it holds of every build (spec 00_scope.md R7, R8); `exec` and `step` are at the
parameters of this hardware. -/

open Sys2Proof Sys2Proof.Machine

/-! ## Encoding and decoding -/

/-- One request word of each family, written out from R60 and R64 as `(C << 136) | (B << 72) | (A << 8) | OP`, decodes
to the command it stands for; the last is the all-zero request, which is refused (R66). -/
def Obligations.WrittenWordsDecode : Prop :=
  decodeWord 0x14057b7ef767814f27bb2ee687b0b0fd00000000000154c203
      = .ok (.muladd 0x154c2 0x27bb2ee687b0b0fd 0x14057b7ef767814f) ∧
  decodeWord 0x00000000000000000000000000000000000000000000000006 = .ok .next ∧
  decodeWord 0x00000000000000000000000000000000000000000000038107 = .ok (.skip 897) ∧
  decodeWord 0x000000000000000500000000000000020123456789abcdef12 = .ok (.load 0x0123456789abcdef 2 5) ∧
  decodeWord 0x00000000000000030000000000000002000000000000000113 = .error (.unassignedOpcode 0x13) ∧
  decodeWord 0 = .error (.unassignedOpcode 0)

/-- Decoding the packed word of a command gives the command, with every operand at every value. -/
def Obligations.DecodeOfEncodeWord : Prop :=
  ∀ i : Instr, decodeWord (encodeWord i) = .ok i

/-- R65, with R64's operand columns: an assigned opcode selects the one row whose OP equals the field, whatever the
operands are, and the command carries the listed fields exactly as they stand (an unlisted one is read as 0 by the
encoder); any other opcode selects none. -/
def Obligations.OpcodeAloneSelectsCommand : Prop :=
  ∀ r : Request,
    (r.wellFormed = true → ∃ i, decode r = .ok i ∧
      encode i = { op := r.op, a := if listsA i then r.a else 0, b := if listsB i then r.b else 0,
                   c := if listsC i then r.c else 0 }) ∧
    (r.wellFormed = false → decode r = .error (.unassignedOpcode r.op))

/-- R69: two requests with one opcode that agree on the fields its row lists are the same command and run alike. -/
def Obligations.UnlistedFieldsAreIgnored : Prop :=
  ∀ (r r' : Request) (i : Instr), decode r = .ok i → r'.op = r.op →
    (listsA i = true → r'.a = r.a) → (listsB i = true → r'.b = r.b) → (listsC i = true → r'.c = r.c) →
    decode r' = .ok i ∧ ∀ s : State, runCommand r' s = runCommand r s

/-- R66: 238 opcodes are not assigned, and a command with one of them writes no register and is answered
`respond(ST_ILLEGAL, 0, 0, 0)`; nothing else of the state changes. -/
def Obligations.UnassignedOpcodeIsAnsweredIllegal : Prop :=
  ((List.range 256).filter fun op => (decode ⟨BitVec.ofNat 8 op, 0, 0, 0⟩).toOption = none).length = 238 ∧
  ∀ (s : State) (req : Request), s.phase = .computing req → NoResetNext s →
    (req.op = 0x00 ∨ 0x13 ≤ req.op.toNat) →
    step s = .next { s with phase := .answering ⟨.illegal, 0, 0, 0⟩ }

/-- From R191: cause code `0x01`; the ILLEGAL response is given and, once it is taken, the block accepts the next command
as usual, with nothing recorded of the refused one. That answering, delivering and accepting are three steps is the
model's choice, not the spec's (log entry 4). -/
def Obligations.BlockGoesOnAfterIllegal : Prop :=
  statusCode .illegal = 0x01 ∧
  ∀ (s : State) (bad good : Request) (rest : List Edge), bad.wellFormed = false →
    s.phase = .computing bad → s.input = takeEdge :: offerEdge good :: rest →
    Sys2Proof.core.run 3 s
      = .next { s with phase := .computing good, input := rest, delivered := s.delivered ++ [⟨.illegal, 0, 0, 0⟩] }

/-- R70: the status of an assigned opcode is `ST_OK`, and every result its row does not list is 0, on every build. -/
def Obligations.UnlistedResultsAreZero : Prop :=
  ∀ (P : Params) (i : Instr) (r : Regs),
    (command P i r).2.st = .ok ∧ (listsQ0 i = false → (command P i r).2.q0 = 0) ∧
    (listsQ1 i = false → (command P i r).2.q1 = 0) ∧ (listsQ2 i = false → (command P i r).2.q2 = 0)

/-- R61, R63: the packed response word holds ST, Q0, Q1, Q2 in its four fields, and ST is `0x00` or `0x01`. -/
def Obligations.PackedResponseFields : Prop :=
  statusCode .ok = 0x00 ∧ statusCode .illegal = 0x01 ∧
  ∀ rsp : Response,
    (packResponse rsp).extractLsb' 0 8 = statusCode rsp.st ∧ (packResponse rsp).extractLsb' 8 64 = rsp.q0 ∧
    (packResponse rsp).extractLsb' 72 64 = rsp.q1 ∧ (packResponse rsp).extractLsb' 136 64 = rsp.q2

/-! ## Steps -/

/-- A step runs the decoded command: with a request in flight that decodes to a command, and no reset at the next edge,
a step is `exec` of that command. The port adds nothing around it: the edge, if there is one, is kept. -/
def Obligations.StepRunsDecodedCommand : Prop :=
  ∀ (s : State) (req : Request) (i : Instr), s.phase = .computing req → NoResetNext s → decode req = .ok i →
    step s = exec i s

/-- From R190, R191 and R218: no command and no step ends in a fault or a refusal, for any operand and any register
value. The one exception, ILLEGAL, is a next state as well: its response, which R191 describes (O5, O6). That the response
of an assigned opcode is `ST_OK` is O7's to say. -/
def Obligations.EveryStepGoesOn : Prop :=
  (∀ (i : Instr) (s : State), ∃ t, exec i s = .next t) ∧ ∀ s : State, ∃ t, step s = .next t

/-- R218: a command in flight, legal or illegal, gets its response at the next step unless reset intervenes, and the
step changes nothing else but registers. -/
def Obligations.CommandInFlightIsAnswered : Prop :=
  ∀ (s : State) (req : Request), s.phase = .computing req → NoResetNext s →
    ∃ r rsp, step s = .next { s with regs := r, phase := .answering rsp }

/-- R46, R30: registers change only at a step that gives a response, together with it, or at a reset. -/
def Obligations.RegistersChangeOnlyWithResponse : Prop :=
  ∀ s t : State, step s = .next t → t.regs ≠ s.regs →
    (∃ e rest, s.input = e :: rest ∧ e.rst = true) ∨
    (∃ req rsp, s.phase = .computing req ∧ t.phase = .answering rsp)

/-- R75, R76, R216: the output signals and the transfers of the port at an edge with `rst` 0. `req_ready` is 1 with no
command in flight and 0 otherwise, and a response is offered exactly where one is outstanding. A valid request is accepted where the block is
ready; a response is delivered where the host is ready, and held as it is where it is not; and a request offered while
a response is outstanding is not accepted. No transfer writes a register. Between commands, with nothing on its inputs,
the block keeps all its state (R200). -/
def Obligations.PortTransfersAndIdling : Prop :=
  (∀ (s : State) (e : Edge) (rest : List Edge), s.input = e :: rest → e.rst = false →
    (s.reqReady = true ↔ s.phase = .ready) ∧ (∀ rsp, s.offered = some rsp ↔ s.phase = .answering rsp) ∧
    (s.phase = .ready → e.reqValid = true → step s = .next { s with phase := .computing e.req, input := rest }) ∧
    (s.phase = .ready → e.reqValid = false → step s = .next { s with input := rest }) ∧
    (∀ rsp, s.phase = .answering rsp → e.rspReady = true →
      step s = .next { s with phase := .ready, input := rest, delivered := s.delivered ++ [rsp] }) ∧
    (∀ rsp, s.phase = .answering rsp → e.rspReady = false → step s = .next { s with input := rest })) ∧
  ∀ s : State, s.input = [] → s.phase = .ready → step s = .next s

/-- From R77: the port serves a host that offers its commands one at a time and takes each response: from a ready block,
three steps a command later the registers are the fold of the transaction function over the requests, and the host
has received exactly one response for each, legal or illegal, in the order of acceptance. The three steps are the model's
choice (log entry 4). -/
def Obligations.PortRefinesTransactions : Prop :=
  ∀ (s : State) (reqs : List Request) (rest : List Edge), s.phase = .ready →
    s.input = reqs.flatMap serveEdges ++ rest →
    Sys2Proof.core.run (3 * reqs.length) s
      = .next { regs := (transactAll Config.params reqs s.regs).1, phase := .ready, input := rest,
                delivered := s.delivered ++ (transactAll Config.params reqs s.regs).2 } ∧
    (transactAll Config.params reqs s.regs).2.length = reqs.length

/-! ## Reset -/

/-- R31: the registers after reset. -/
def Obligations.RegistersAfterReset : Prop :=
  State.reset.regs.state = Config.params.defaultSeed ∧ State.reset.regs.seed = Config.params.defaultSeed ∧
  Config.params.defaultSeed ≠ 0 ∧ State.reset.regs.count = 0 ∧ State.reset.regs.inc = 0x14057b7ef767814f ∧
  Config.params.mult = 0x27bb2ee687b0b0fd ∧ Consistent Config.params State.reset.regs ∧ State.reset.phase = .ready

/-- R210, R213: at an edge with `rst` 1 every register takes its reset value, whatever was in flight; a command in
flight is abandoned with no response, nothing is accepted and nothing delivered; and no response is offered while `rst`
is 1, `rsp_valid` being 0. -/
def Obligations.ResetEdgeAbandonsEverything : Prop :=
  ∀ (s : State) (e : Edge) (rest : List Edge), s.input = e :: rest → e.rst = true →
    s.offered = none ∧ s.rspValid = false ∧
    step s = .next { regs := { state := Config.params.defaultSeed, seed := Config.params.defaultSeed, count := 0,
                               inc := 0x14057b7ef767814f },
                     phase := .ready, input := rest, delivered := s.delivered }

/-! ## Frames -/

/-- R20's and R64's columns of written registers, for every command: a command writes no register its row does not
list, and leaves the inputs and the responses already delivered alone. -/
def Obligations.CommandsWriteOnlyTheirRegisters : Prop :=
  ∀ (i : Instr) (s : State), ∃ t, exec i s = .next t ∧
    (writesSeed i = false → t.regs.seed = s.regs.seed) ∧
    (writesInc i = false → t.regs.inc = s.regs.inc) ∧
    (writesStateCount i = false → t.regs.state = s.regs.state ∧ t.regs.count = s.regs.count) ∧
    t.input = s.input ∧ t.delivered = s.delivered

/-- R23: how each command changes COUNT, on every build. -/
def Obligations.CountAdvancesByDistance : Prop :=
  ∀ (P : Params) (r : Regs),
    (∀ i d, advanceOf i = some d → (command P i r).1.count.toNat = (r.count.toNat + d.toNat) % 2 ^ 64) ∧
    (∀ v, (command P (.setseed v) r).1.count = 0) ∧
    (∀ k, (command P (.setcount k) r).1.count = k) ∧
    (∀ a k c, (command P (.load a k c) r).1.count = k) ∧
    (∀ n, (command P (.nthnum n) r).1.count.toNat = (P.nthnumPrestep.val + n.toNat) % 2 ^ 64) ∧
    (∀ i, writesStateCount i = false → (command P i r).1.count = r.count)

/-- R47: the commands that write no register repeat their response; SETSEED, SETINC, SETCOUNT, LOAD and NTHNUM are
idempotent; STEP, NEXT, SKIP and FFWD with a distance that is not 0 advance COUNT again each time. -/
def Obligations.RepeatedCommands : Prop :=
  ∀ (P : Params) (r : Regs),
    (∀ i, writesSeed i = false → writesInc i = false → writesStateCount i = false →
      (command P i r).1 = r ∧ command P i (command P i r).1 = command P i r) ∧
    (∀ i, advanceOf i = none → (command P i (command P i r).1).1 = (command P i r).1) ∧
    (∀ i d, advanceOf i = some d → d ≠ 0 →
      (command P i (command P i r).1).1.count.toNat = (r.count.toNat + 2 * d.toNat) % 2 ^ 64 ∧
      (command P i r).1.count ≠ r.count ∧ (command P i (command P i r).1).1.count ≠ (command P i r).1.count)

/-! ## Arithmetic -/

/-- R96: MUL answers the product modulo 2^64 and changes nothing else. -/
def Obligations.MulAnswersProduct : Prop :=
  ∀ (s : State) (a b : Word),
    exec (.mul a b) s
      = .next { s with phase := .answering ⟨.ok, BitVec.ofNat 64 ((a.toNat * b.toNat) % 2 ^ 64), 0, 0⟩ }

/-- R97: ADD answers the sum modulo 2^64 and changes nothing else. -/
def Obligations.AddAnswersSum : Prop :=
  ∀ (s : State) (a b : Word),
    exec (.add a b) s
      = .next { s with phase := .answering ⟨.ok, BitVec.ofNat 64 ((a.toNat + b.toNat) % 2 ^ 64), 0, 0⟩ }

/-- R98: MULADD answers `(A × B + C) mod 2^64` and changes nothing else. -/
def Obligations.MuladdAnswersProductPlusAddend : Prop :=
  ∀ (s : State) (a b c : Word),
    exec (.muladd a b c) s
      = .next { s with phase := .answering ⟨.ok, BitVec.ofNat 64 ((a.toNat * b.toNat + c.toNat) % 2 ^ 64), 0, 0⟩ }

/-- R95, with R93 and R94: the forms built from 32-bit halves agree with the native ones for every pair. -/
def Obligations.HalfFormsAgreeWithNative : Prop :=
  ∀ a b : Word,
    mulHalves a b = BitVec.ofNat 64 ((a.toNat * b.toNat) % 2 ^ 64) ∧
    addHalves a b = BitVec.ofNat 64 ((a.toNat + b.toNat) % 2 ^ 64)

/-- R99: the results are the same whether the operands are read as unsigned or as two's-complement signed values. -/
def Obligations.SignednessDoesNotMatter : Prop :=
  ∀ a b : Word, mul64 a b = reduce64 (a.toInt * b.toInt) ∧ add64 a b = reduce64 (a.toInt + b.toInt)

/-! ## Transition and output -/

/-- R111: STEP replaces STATE by `(MULT × STATE + INC) mod 2^64`, advances COUNT by one and answers nothing. -/
def Obligations.StepTransitionsState : Prop :=
  ∀ s : State,
    exec .step s
      = .next { s with
          regs := { s.regs with
            state := BitVec.ofNat 64 ((0x27bb2ee687b0b0fd * s.regs.state.toNat + s.regs.inc.toNat) % 2 ^ 64)
            count := BitVec.ofNat 64 ((s.regs.count.toNat + 1) % 2 ^ 64) }
          phase := .answering ⟨.ok, 0, 0, 0⟩ }

/-- R115: PEEK answers the output of STATE and its normalised value, and changes nothing else. -/
def Obligations.PeekAnswersOutput : Prop :=
  ∀ s : State,
    exec .peek s
      = .next { s with
          phase := .answering ⟨.ok, BitVec.ofNat 64 (xshrr s.regs.state).toNat, normBits (xshrr s.regs.state), 0⟩ }

/-- R116: NEXT makes one transition and answers the output of the NEW state. -/
def Obligations.NextAnswersNewOutput : Prop :=
  ∀ s : State,
    let s' : Word := BitVec.ofNat 64 ((0x27bb2ee687b0b0fd * s.regs.state.toNat + s.regs.inc.toNat) % 2 ^ 64)
    exec .next s
      = .next { s with
          regs := { s.regs with
            state := s', count := BitVec.ofNat 64 ((s.regs.count.toNat + 1) % 2 ^ 64) }
          phase := .answering ⟨.ok, BitVec.ofNat 64 (xshrr s').toNat, normBits (xshrr s'), 0⟩ }

/-- R112: the value that is rotated, the rotation and the rotated value of a state. -/
def Obligations.OutputIsRotatedXorShift : Prop :=
  ∀ s : Word,
    (shifted s).toNat = ((s.toNat ^^^ (s.toNat / 2 ^ 18)) / 2 ^ 27) % 2 ^ 32 ∧
    rotAmount s = s.toNat / 2 ^ 59 ∧ rotAmount s ≤ 31 ∧
    ∀ k < 32, (xshrr s).getLsbD k = (shifted s).getLsbD ((k + rotAmount s) % 32)

/-- R113: bit k of `shifted` is `s[27+k] ^ s[45+k]` (a bit beyond 63 is 0), and the output depends on `s[63:27]` only. -/
def Obligations.LowStateBitsNeverReachOutput : Prop :=
  (∀ (s : Word) (k : Nat), k < 32 → (shifted s).getLsbD k = (s.getLsbD (27 + k) ^^ s.getLsbD (45 + k))) ∧
  ∀ s t : Word, s.toNat / 2 ^ 27 = t.toNat / 2 ^ 27 → xshrr s = xshrr t

/-- R114: NORM is the exact quotient `o / 4294967295` rounded to the nearest binary64 value, ties to even: no finite
binary64 value is nearer, and where another is as near the result's last bit is 0. It is `+0.0` at 0 and 1.0 at the
top, and never negative, NaN or infinite. -/
def Obligations.NormIsNearestBinary64 : Prop :=
  (∀ (o : Half) (b : Word), f64Finite b →
    |f64Value (normBits o) - (o.toNat : ℚ) / 4294967295| ≤ |f64Value b - (o.toNat : ℚ) / 4294967295| ∧
    (|f64Value (normBits o) - (o.toNat : ℚ) / 4294967295| = |f64Value b - (o.toNat : ℚ) / 4294967295| →
      f64Value b = f64Value (normBits o) ∨ (normBits o).getLsbD 0 = false)) ∧
  (∀ o : Half, f64Finite (normBits o) ∧ (normBits o).getLsbD 63 = false ∧ f64Value (normBits o) ≤ 1) ∧
  normBits 0 = 0x0000000000000000 ∧ normBits 0xffffffff = 0x3ff0000000000000

/-- A property of the chosen format (D11): a greater output has a greater normalised value, as numbers and as bit
patterns. -/
def Obligations.NormIsStrictlyMonotone : Prop :=
  ∀ o p : Half, o.toNat < p.toNat → (normBits o).toNat < (normBits p).toNat ∧ f64Value (normBits o) < f64Value (normBits p)

/-- R117: with INC = 0 and STATE = 0 every transition leaves STATE 0 and every output is 0, whatever MULT is. -/
def Obligations.ZeroStateAndIncrementAreFixed : Prop :=
  ∀ (P : Params) (k : Nat) (count seed : Word),
    transitionPow P.mult 0 k 0 = 0 ∧
    command P .next { state := 0, seed := seed, count := count, inc := 0 }
      = ({ state := 0, seed := seed, count := BitVec.ofNat 64 (count.toNat + 1), inc := 0 }, ⟨.ok, 0, 0, 0⟩)

/-- R118: with INC and MULT odd the transition has no fixed point. -/
def Obligations.OddTransitionHasNoFixedPoint : Prop :=
  ∀ m i : Word, m.toNat % 2 = 1 → i.toNat % 2 = 1 → ∀ s : Word, transition m i s ≠ s

/-! ## Jumps -/

/-- R131: `JUMP(d, m, i) = (m^d mod 2^64, i × (1 + m + ... + m^(d-1)) mod 2^64)`, for every d, m and i. -/
def Obligations.JumpClosedForm : Prop :=
  ∀ d m i : Word,
    (jump d m i).1.toNat = m.toNat ^ d.toNat % 2 ^ 64 ∧
    (jump d m i).2.toNat = (i.toNat * ∑ k ∈ Finset.range d.toNat, m.toNat ^ k) % 2 ^ 64

/-- R131, R13: the pair JUMP computes is that of `T_{m,i}` composed with itself `d` times. -/
def Obligations.JumpIsIteratedTransition : Prop :=
  ∀ d m i x : Word, jumpFrom d m i x = transitionPow m i d.toNat x

/-- R130, R141: the loop of the calculator ends within 64 rounds, and running exactly 64 rounds, one for each bit of
the distance, gives the same pair. -/
def Obligations.JumpEndsWithinSixtyFourRounds : Prop :=
  ∀ w : JumpRegs,
    (jumpRounds 64 w).d = 0 ∧ (∀ n, 64 ≤ n → jumpRounds n w = jumpRounds 64 w) ∧
    (jumpRound^[64] w).g = (jumpRounds 64 w).g ∧ (jumpRound^[64] w).c = (jumpRounds 64 w).c

/-- R132: FFWD applies the pair of the distance to STATE, advances COUNT by the distance as given and answers nothing. -/
def Obligations.FfwdJumpsState : Prop :=
  ∀ (s : State) (d : Word),
    exec (.ffwd d) s
      = .next { s with
          regs := { s.regs with
            state := BitVec.ofNat 64 (((jump d 0x27bb2ee687b0b0fd s.regs.inc).1.toNat * s.regs.state.toNat
              + (jump d 0x27bb2ee687b0b0fd s.regs.inc).2.toNat) % 2 ^ 64)
            count := BitVec.ofNat 64 ((s.regs.count.toNat + d.toNat) % 2 ^ 64) }
          phase := .answering ⟨.ok, 0, 0, 0⟩ }

/-- R133: JCALC answers the pair (G, C) and changes nothing else. -/
def Obligations.JcalcAnswersPair : Prop :=
  ∀ (s : State) (d : Word),
    exec (.jcalc d) s
      = .next { s with
          phase := .answering ⟨.ok, (jump d 0x27bb2ee687b0b0fd s.regs.inc).1,
            (jump d 0x27bb2ee687b0b0fd s.regs.inc).2, 0⟩ }

/-- R134: SKIP jumps, advances COUNT by the distance as given and answers the output of the new state. -/
def Obligations.SkipAnswersJumpedOutput : Prop :=
  ∀ (s : State) (n : Word),
    let s' : Word := BitVec.ofNat 64 (((jump n 0x27bb2ee687b0b0fd s.regs.inc).1.toNat * s.regs.state.toNat
      + (jump n 0x27bb2ee687b0b0fd s.regs.inc).2.toNat) % 2 ^ 64)
    exec (.skip n) s
      = .next { s with
          regs := { s.regs with
            state := s', count := BitVec.ofNat 64 ((s.regs.count.toNat + n.toNat) % 2 ^ 64) }
          phase := .answering ⟨.ok, BitVec.ofNat 64 (xshrr s').toNat, normBits (xshrr s'), 0⟩ }

/-- R135: NTHNUM starts from SEED, makes the discarded transition where `P_NTHNUM_PRESTEP` is 1 (as it is here), jumps,
sets COUNT to `p + n` and answers the output of the new state; with the parameter at 0 it starts from SEED itself. -/
def Obligations.NthnumAnswersFromSeed : Prop :=
  (∀ (s : State) (n : Word),
    let s0 : Word := BitVec.ofNat 64 ((0x27bb2ee687b0b0fd * s.regs.seed.toNat + s.regs.inc.toNat) % 2 ^ 64)
    let s' : Word := BitVec.ofNat 64 (((jump n 0x27bb2ee687b0b0fd s.regs.inc).1.toNat * s0.toNat
      + (jump n 0x27bb2ee687b0b0fd s.regs.inc).2.toNat) % 2 ^ 64)
    exec (.nthnum n) s
      = .next { s with
          regs := { s.regs with
            state := s', count := BitVec.ofNat 64 ((1 + n.toNat) % 2 ^ 64) }
          phase := .answering ⟨.ok, BitVec.ofNat 64 (xshrr s').toNat, normBits (xshrr s'), 0⟩ }) ∧
  ∀ (P : Params) (r : Regs) (n : Word), P.nthnumPrestep = 0 →
    let s' : Word := BitVec.ofNat 64 (((jump n P.mult r.inc).1.toNat * r.seed.toNat
      + (jump n P.mult r.inc).2.toNat) % 2 ^ 64)
    command P (.nthnum n) r
      = ({ r with state := s', count := n }, ⟨.ok, BitVec.ofNat 64 (xshrr s').toNat, normBits (xshrr s'), 0⟩)

/-- R136, R137: SKIP 1 and NEXT are interchangeable, and SKIP 0 writes nothing and returns the same response as PEEK, on
every build. -/
def Obligations.SkipOneIsNextAndSkipZeroIsPeek : Prop :=
  ∀ (P : Params) (r : Regs),
    command P (.skip 1) r = command P .next r ∧
    command P (.skip 0) r = command P .peek r ∧ (command P (.skip 0) r).1 = r

/-- R138: jumps compose, for SKIP and for FFWD; for even MULT, where the sum does not wrap. -/
def Obligations.JumpsCompose : Prop :=
  ∀ (P : Params) (r : Regs) (a b : Word), (P.mult.toNat % 2 = 1 ∨ a.toNat + b.toNat < 2 ^ 64) →
    command P (.skip b) (command P (.skip a) r).1 = command P (.skip (add64 a b)) r ∧
    command P (.ffwd b) (command P (.ffwd a) r).1 = command P (.ffwd (add64 a b)) r

/-- R139: when MULT is odd, `T^(2^64)` is the identity and `FFWD (2^64 - k)` undoes k steps; with MULT = 2 and the
default increment, two jumps of 2^63 do not come back. -/
def Obligations.OddMultiplierRewinds : Prop :=
  (∀ m i x : Word, m.toNat % 2 = 1 → transitionPow m i (2 ^ 64) x = x) ∧
  (∀ (P : Params) (r : Regs) (k : Word), P.mult.toNat % 2 = 1 →
    (command P (.ffwd (BitVec.ofNat 64 (2 ^ 64 - k.toNat))) (command P (.ffwd k) r).1).1 = r) ∧
  jumpFrom 0x8000000000000000 2 0x14057b7ef767814f (jumpFrom 0x8000000000000000 2 0x14057b7ef767814f 5)
    = 0xebfa848108987eb1

/-- R140: with the default MULT and INC every 64-bit state occurs exactly once per period of 2^64 transitions. -/
def Obligations.DefaultPeriodIsFull : Prop :=
  ∀ x y : Word, ∃! k : Nat, k < 2 ^ 64 ∧ transitionPow 0x27bb2ee687b0b0fd 0x14057b7ef767814f k x = y

/-! ## Session -/

/-- R160: SETSEED sets SEED and STATE to the operand and COUNT to 0, together. -/
def Obligations.SetseedReseeds : Prop :=
  ∀ (s : State) (v : Word),
    exec (.setseed v) s
      = .next { s with regs := { s.regs with seed := v, state := v, count := 0 }, phase := .answering ⟨.ok, 0, 0, 0⟩ }

/-- R162: SETINC sets INC and changes no other register. -/
def Obligations.SetincReplacesIncrement : Prop :=
  ∀ (s : State) (v : Word),
    exec (.setinc v) s
      = .next { s with regs := { s.regs with inc := v }, phase := .answering ⟨.ok, 0, 0, 0⟩ }

/-- R161, R163, R165, R166: GETSEED, GETINC, GETCOUNT and SAVE answer the registers they name and change nothing else. -/
def Obligations.GettersAnswerRegisters : Prop :=
  ∀ s : State,
    exec .getseed s = .next { s with phase := .answering ⟨.ok, s.regs.seed, 0, 0⟩ } ∧
    exec .getinc s = .next { s with phase := .answering ⟨.ok, s.regs.inc, 0, 0⟩ } ∧
    exec .getcount s = .next { s with phase := .answering ⟨.ok, s.regs.count, 0, 0⟩ } ∧
    exec .save s = .next { s with phase := .answering ⟨.ok, s.regs.seed, s.regs.count, s.regs.inc⟩ }

/-- R164: SETCOUNT sets STATE to the jump of the count from SEED under the current INC, and COUNT to the operand. -/
def Obligations.SetcountRepositions : Prop :=
  ∀ (s : State) (k : Word),
    exec (.setcount k) s
      = .next { s with
          regs := { s.regs with
            state := BitVec.ofNat 64 (((jump k 0x27bb2ee687b0b0fd s.regs.inc).1.toNat * s.regs.seed.toNat
              + (jump k 0x27bb2ee687b0b0fd s.regs.inc).2.toNat) % 2 ^ 64)
            count := k }
          phase := .answering ⟨.ok, 0, 0, 0⟩ }

/-- R167: LOAD writes SEED, INC, STATE and COUNT together; the jump uses the loaded increment. -/
def Obligations.LoadRestoresTuple : Prop :=
  ∀ (s : State) (a b c : Word),
    exec (.load a b c) s
      = .next { s with
          regs := {
            state := BitVec.ofNat 64 (((jump b 0x27bb2ee687b0b0fd c).1.toNat * a.toNat
              + (jump b 0x27bb2ee687b0b0fd c).2.toNat) % 2 ^ 64)
            seed := a, count := b, inc := c }
          phase := .answering ⟨.ok, 0, 0, 0⟩ }

/-- R168: LOAD of the tuple SAVE returned, issued from any later registers, restores SEED, COUNT and INC and sets STATE
to `T^COUNT(SEED)` under the saved INC; where the register set was consistent at the SAVE, that is every register. -/
def Obligations.SaveLoadRoundTrip : Prop :=
  ∀ (P : Params) (r later : Regs),
    let saved := (command P .save r).2
    let loaded := (command P (.load saved.q0 saved.q1 saved.q2) later).1
    loaded = { r with state := transitionPow P.mult r.inc r.count.toNat r.seed } ∧
    (Consistent P r → loaded = r)

/-- R169: after n transitions from one seed, the states under two increments differ by
`(i1 - i2) × (1 + MULT + ... + MULT^(n-1)) mod 2^64`; at step 0 the PEEK output is the same. From 87234 with the
default MULT, INC + 2 gives another state but the same output after one step, and INC with bit 63 flipped gives the
same state after every even number of steps. -/
def Obligations.IncrementSensitivity : Prop :=
  (∀ (P : Params) (r : Regs) (i : Word), (command P .peek { r with inc := i }).2 = (command P .peek r).2) ∧
  (∀ (m i₁ i₂ x : Word) (n : Nat),
    transitionPow m i₁ n x
      = transitionPow m i₂ n x + (i₁ - i₂) * BitVec.ofNat 64 (∑ k ∈ Finset.range n, m.toNat ^ k)) ∧
  (transition 0x27bb2ee687b0b0fd 0x14057b7ef767814f 87234 = 0xca293268765da509 ∧
    transition 0x27bb2ee687b0b0fd 0x14057b7ef7678151 87234 = 0xca293268765da50b ∧
    xshrr 0xca293268765da509 = 0x900e23a2 ∧ xshrr 0xca293268765da50b = 0x900e23a2) ∧
  (∀ n : Nat, transitionPow 0x27bb2ee687b0b0fd 0x94057b7ef767814f (2 * n) 87234
    = transitionPow 0x27bb2ee687b0b0fd 0x14057b7ef767814f (2 * n) 87234)

/-! ## Consistency -/

/-- R28, first and third part: reset, SETSEED, SETCOUNT and LOAD make the register set consistent from any registers, on
every build, and NTHNUM does where its count does not wrap or MULT is odd; a SETINC can break it. -/
def Obligations.CommandsThatMakeConsistent : Prop :=
  (∀ (P : Params) (r : Regs),
    Consistent P (Regs.reset P) ∧
    (∀ v, Consistent P (command P (.setseed v) r).1) ∧
    (∀ k, Consistent P (command P (.setcount k) r).1) ∧
    (∀ a b c, Consistent P (command P (.load a b c) r).1) ∧
    (∀ n, (P.mult.toNat % 2 = 1 ∨ n.toNat + 1 < 2 ^ 64) → Consistent P (command P (.nthnum n) r).1)) ∧
  ∃ (r : Regs) (v : Word), Consistent Config.params r ∧ ¬ Consistent Config.params (command Config.params (.setinc v) r).1

/-- R28: on a build with an odd MULT every command but a SETINC of a new value keeps the register set consistent, the
wrap of COUNT included. -/
def Obligations.OddMultiplierKeepsConsistency : Prop :=
  ∀ (P : Params) (r : Regs) (i : Instr), P.mult.toNat % 2 = 1 → Consistent P r →
    (∀ v, i = .setinc v → v = r.inc) → Consistent P (command P i r).1

/-- An invariant of the machine (R27, R28): every step keeps the register set consistent, unless the command in flight
is a SETINC of a value other than INC. -/
def Obligations.EveryStepKeepsConsistency : Prop :=
  ∀ s t : State, Consistent Config.params s.regs → step s = .next t →
    (∀ req v, s.phase = .computing req → decode req = .ok (.setinc v) → v = s.regs.inc) →
    Consistent Config.params t.regs

/-- An invariant of the machine (R66, R191): every step keeps the responses well-formed: an ILLEGAL response carries no
result, whether it is held or was delivered. -/
def Obligations.EveryStepKeepsResponsesWellFormed : Prop :=
  ∀ s t : State, ResponsesWellFormed s → step s = .next t → ResponsesWellFormed t

/-- An invariant of a program without illegal requests (U1, R70): while only assigned opcodes are in flight, every step
keeps every response `ST_OK`. -/
def Obligations.AssignedOpcodesKeepResponsesOk : Prop :=
  ∀ s t : State, NoIllegalResponse s → step s = .next t →
    (∀ req, s.phase = .computing req → req.wellFormed = true) → NoIllegalResponse t

/-- The invariants hold at reset. -/
def Obligations.InvariantsHoldAtReset : Prop :=
  Consistent Config.params State.reset.regs ∧ ResponsesWellFormed State.reset ∧ NoIllegalResponse State.reset

/-! ## The host's tooling -/

/-- R71, with R43 and R44: the LOAD of the image of a SAVE response is the LOAD of its tuple, the image has six words,
and its little-endian bytes give the words back. -/
def Obligations.PersistedImageRoundTrip : Prop :=
  (∀ rsp : Response,
    loadOfImage (imageOfSave rsp) = some (.load rsp.q0 rsp.q1 rsp.q2) ∧ (imageOfSave rsp).length = 6) ∧
  (∀ ws : List Half, wordsOfBytes (imageBytes ws) = some ws ∧ (imageBytes ws).length = 4 * ws.length) ∧
  ∀ ws : List Half, ws.length ≠ 6 → loadOfImage ws = none

/-- From R74: what the pseudo-commands do to the registers: REWIND is FFWD of `(2^64 - n) mod 2^64`, RESTART returns to
step 0, CONSTRUCT loads a seed and an increment, SETSEEDLO and SETSEEDHI replace one half of the seed (an explicit zero
too), and SETINC with no operand is no command at all. SETSEEDLO and SETSEEDHI are two commands each and not atomic (R74,
R51): their clauses are of `runHost`, which lets no other host's command stand between the two. That is the model's choice
(log entry 16), unsafe for hosts that share the port without the external lock R51 asks of them. -/
def Obligations.PseudoCommandEffects : Prop :=
  ∀ (P : Params) (r : Regs) (q0 : Word),
    (∀ n : Word, (runHost P (rewind n) q0 r).1 = (command P (.ffwd (BitVec.ofNat 64 ((2 ^ 64 - n.toNat) % 2 ^ 64))) r).1) ∧
    (runHost P restart q0 r).1 = { r with state := r.seed, count := 0 } ∧
    (∀ s i : Word, (runHost P (construct s i) q0 r).1 = { state := s, seed := s, count := 0, inc := i }) ∧
    (∀ lo : Half, (runHost P (setseedlo lo) q0 r).1
      = { r with seed := ofHalves lo (highHalf r.seed), state := ofHalves lo (highHalf r.seed), count := 0 }) ∧
    (∀ hi : Half, (runHost P (setseedhi hi) q0 r).1
      = { r with seed := ofHalves (lowHalf r.seed) hi, state := ofHalves (lowHalf r.seed) hi, count := 0 }) ∧
    assembleCommand "SETINC" [] = .ok []

/-- From R72 to R74: a host integer is reduced modulo 2^64, or 2^32, by two's-complement reinterpretation. Under the
mnemonic of every command of R64, as many operands as its row lists fill A, B, C in order, each reduced, with 0 in the
fields not written, and any other count is refused; SETINC alone may stand without its operand, where R74 makes it no
command (O59). The operands of R74's pseudo-commands are reduced alike. Two whole lines: the spec's example assembles to
its word, and an operand `-1` before a comment to all ones. -/
def Obligations.AssemblerReducesOperands : Prop :=
  (∀ n : Int, (reduce64 n).toNat = (n % 2 ^ 64).toNat ∧ (reduce32 n).toNat = (n % 2 ^ 32).toNat) ∧
  (∀ (i : Instr) (ops : List Int), ops.length = operandCount i →
    ∃ j, assembleCommand i.mnemonic ops = .ok [plain j] ∧
      encode j = { op := i.opcode, a := reduce64 (ops.getD 0 0), b := reduce64 (ops.getD 1 0),
                   c := reduce64 (ops.getD 2 0) }) ∧
  (∀ (i : Instr) (ops : List Int), ops.length ≠ operandCount i → (i.mnemonic = "SETINC" → ops ≠ []) →
    assembleCommand i.mnemonic ops = .error .wrongOperandCount) ∧
  (∀ x y : Int, assembleCommand "REWIND" [x] = .ok (rewind (reduce64 x)) ∧ assembleCommand "RESTART" [] = .ok restart ∧
    assembleCommand "CONSTRUCT" [x, y] = .ok (construct (reduce64 x) (reduce64 y)) ∧
    assembleCommand "SETSEEDLO" [x] = .ok (setseedlo (reduce32 x)) ∧
    assembleCommand "SETSEEDHI" [x] = .ok (setseedhi (reduce32 x))) ∧
  (assembleLine "SKIP 897".toList).toOption.map (fun p => p.map fun h => encodeWord (h 0))
    = some [0x00000000000000000000000000000000000000000000038107] ∧
  (assembleLine "SKIP -1 ; the step before".toList).toOption.map (fun p => p.map fun h => h 0)
    = some [.skip 0xffffffffffffffff]
end

