-- ==== Sys2Proof/Laws/State.lean ====
section
/-! SUPPORT. One lemma per field per update of the state, so that no proof unfolds a record update. -/

namespace Sys2Proof.Machine

@[simp] theorem State.accept_regs (req : Request) (s : State) : (s.accept req).regs = s.regs := rfl
@[simp] theorem State.accept_phase (req : Request) (s : State) : (s.accept req).phase = .computing req := rfl
@[simp] theorem State.accept_input (req : Request) (s : State) : (s.accept req).input = s.input := rfl
@[simp] theorem State.accept_delivered (req : Request) (s : State) : (s.accept req).delivered = s.delivered := rfl

@[simp] theorem State.commit_regs (r : Regs) (rsp : Response) (s : State) : (s.commit r rsp).regs = r := rfl
@[simp] theorem State.commit_phase (r : Regs) (rsp : Response) (s : State) : (s.commit r rsp).phase = .answering rsp := rfl
@[simp] theorem State.commit_input (r : Regs) (rsp : Response) (s : State) : (s.commit r rsp).input = s.input := rfl
@[simp] theorem State.commit_delivered (r : Regs) (rsp : Response) (s : State) :
    (s.commit r rsp).delivered = s.delivered := rfl

@[simp] theorem State.deliver_regs (rsp : Response) (s : State) : (s.deliver rsp).regs = s.regs := rfl
@[simp] theorem State.deliver_phase (rsp : Response) (s : State) : (s.deliver rsp).phase = .ready := rfl
@[simp] theorem State.deliver_input (rsp : Response) (s : State) : (s.deliver rsp).input = s.input := rfl
@[simp] theorem State.deliver_delivered (rsp : Response) (s : State) :
    (s.deliver rsp).delivered = s.delivered ++ [rsp] := rfl

@[simp] theorem State.withInput_regs (es : List Edge) (s : State) : (s.withInput es).regs = s.regs := rfl
@[simp] theorem State.withInput_phase (es : List Edge) (s : State) : (s.withInput es).phase = s.phase := rfl
@[simp] theorem State.withInput_input (es : List Edge) (s : State) : (s.withInput es).input = es := rfl
@[simp] theorem State.withInput_delivered (es : List Edge) (s : State) : (s.withInput es).delivered = s.delivered := rfl

@[simp] theorem State.takeReset_regs (s : State) : s.takeReset.regs = Regs.reset Config.params := rfl
@[simp] theorem State.takeReset_phase (s : State) : s.takeReset.phase = .ready := rfl
@[simp] theorem State.takeReset_input (s : State) : s.takeReset.input = s.input := rfl
@[simp] theorem State.takeReset_delivered (s : State) : s.takeReset.delivered = s.delivered := rfl

@[simp] theorem State.reset_regs : State.reset.regs = Regs.reset Config.params := rfl
@[simp] theorem State.reset_phase : State.reset.phase = .ready := rfl
@[simp] theorem State.reset_input : State.reset.input = [] := rfl
@[simp] theorem State.reset_delivered : State.reset.delivered = [] := rfl

@[simp] theorem Regs.reset_state (P : Params) : (Regs.reset P).state = P.defaultSeed := rfl
@[simp] theorem Regs.reset_seed (P : Params) : (Regs.reset P).seed = P.defaultSeed := rfl
@[simp] theorem Regs.reset_count (P : Params) : (Regs.reset P).count = 0 := rfl
@[simp] theorem Regs.reset_inc (P : Params) : (Regs.reset P).inc = P.incReset := rfl

end Sys2Proof.Machine
end

