-- ==== Sys2Proof/Laws/Ops.lean ====
section
/-! SUPPORT. One lemma per shared operation: the arithmetic of the block is the ring of 64-bit vectors, and a command
on the port is one transaction. -/

namespace Sys2Proof.Machine

/-! ## Arithmetic -/

theorem mul64_eq_mul (a b : Word) : mul64 a b = a * b := by
  apply BitVec.eq_of_toNat_eq
  simp [mul64, BitVec.toNat_mul]

theorem add64_eq_add (a b : Word) : add64 a b = a + b := by
  apply BitVec.eq_of_toNat_eq
  simp [add64, BitVec.toNat_add]

theorem affine_eq_mul_add (g c x : Word) : affine g c x = g * x + c := by
  rw [affine, mul64_eq_mul, add64_eq_add]

theorem transition_eq_mul_add (m i x : Word) : transition m i x = m * x + i := affine_eq_mul_add m i x

/-- The affine maps compose as their pairs do (R100, R130). -/
theorem affine_affine (g₁ c₁ g₂ c₂ x : Word) :
    affine g₂ c₂ (affine g₁ c₁ x) = affine (mul64 g₂ g₁) (add64 (mul64 g₂ c₁) c₂) x := by
  simp only [affine_eq_mul_add, mul64_eq_mul, add64_eq_add]
  ring

/-! ## Commands on the port -/

theorem answer_eq_next (tx : Regs × Response) (s : State) : answer tx s = .next (s.commit tx.1 tx.2) := rfl

/-- A command on the port is its transaction at the parameters of this hardware (R77). -/
theorem exec_eq_answer_command (i : Instr) (s : State) : exec i s = answer (command Config.params i s.regs) s := by
  cases i <;> rfl

/-- What a command can do on the port: it always completes, with its transaction's registers and response. -/
theorem exec_eq_next (i : Instr) (s : State) :
    exec i s = .next (s.commit (command Config.params i s.regs).1 (command Config.params i s.regs).2) :=
  exec_eq_answer_command i s

theorem takeIllegal_eq_next (s : State) : takeIllegal s = .next (s.commit s.regs (respond .illegal 0 0 0)) := rfl

/-- A request that decodes is the transaction of its command. -/
theorem transact_of_decode {req : Request} {i : Instr} (P : Params) (r : Regs) (h : decode req = .ok i) :
    transact P req r = command P i r := by
  rw [transact, h]

/-- A request that does not decode is ILLEGAL. -/
theorem transact_of_reject {req : Request} {e : DecodeReject} (P : Params) (r : Regs) (h : decode req = .error e) :
    transact P req r = illegal r := by
  rw [transact, h]

end Sys2Proof.Machine
end

