-- ==== Sys2Proof/Laws/Jump.lean ====
section
/-! SUPPORT. What one round of the jump calculator does to its working registers, and how rounds compose. -/

namespace Sys2Proof.Machine

/-! ## The remaining distance -/

/-- A round halves the remaining distance. -/
theorem jumpRound_d_toNat (w : JumpRegs) : (jumpRound w).d.toNat = w.d.toNat / 2 := by
  simp [jumpRound, Nat.shiftRight_eq_div_pow]

/-- With no distance left the loop stops where it is. -/
theorem jumpRounds_of_d_eq_zero (n : Nat) {w : JumpRegs} (h : w.d = 0) : jumpRounds n w = w := by
  cases n <;> simp [jumpRounds, h]

/-- `n` rounds shift the distance right by `n`. -/
theorem jumpRounds_d_toNat (n : Nat) (w : JumpRegs) : (jumpRounds n w).d.toNat = w.d.toNat / 2 ^ n := by
  induction n generalizing w with
  | zero => simp [jumpRounds]
  | succ n ih =>
    rw [jumpRounds]
    split
    · next h => simp [h]
    · rw [ih, jumpRound_d_toNat, Nat.div_div_eq_div_mul, pow_succ, mul_comm]

/-- Rounds compose. -/
theorem jumpRounds_add (n m : Nat) (w : JumpRegs) : jumpRounds (n + m) w = jumpRounds m (jumpRounds n w) := by
  induction n generalizing w with
  | zero => simp [jumpRounds]
  | succ n ih =>
    rw [show n + 1 + m = n + m + 1 by omega, jumpRounds, jumpRounds]
    split
    · next h => rw [jumpRounds_of_d_eq_zero m h]
    · exact ih _

/-! ## The transforms -/

theorem transitionPow_zero (m i x : Word) : transitionPow m i 0 x = x := rfl

theorem transitionPow_one (m i x : Word) : transitionPow m i 1 x = transition m i x := rfl

theorem transitionPow_add (m i : Word) (a b : Nat) (x : Word) :
    transitionPow m i (a + b) x = transitionPow m i a (transitionPow m i b x) :=
  Function.iterate_add_apply _ a b x

/-- A round squares the running transform: the new one is two steps of the old. -/
theorem transition_jumpRound (w : JumpRegs) (x : Word) :
    transition (jumpRound w).curM (jumpRound w).curI x = transitionPow w.curM w.curI 2 x := by
  have h : transitionPow w.curM w.curI 2 x = transition w.curM w.curI (transition w.curM w.curI x) := rfl
  rw [h, jumpRound]
  simp only [transition_eq_mul_add, mul64_eq_mul, add64_eq_add, mul_add, mul_assoc, add_assoc]
  rw [mul_comm w.curI w.curM, show (1 : Word) = 1#64 from rfl, BitVec.mul_one]

/-- A round whose distance bit is 1 folds the running transform into the accumulated one. -/
theorem affine_jumpRound_of_odd {w : JumpRegs} (h : w.d.getLsbD 0 = true) (x : Word) :
    affine (jumpRound w).g (jumpRound w).c x = transition w.curM w.curI (affine w.g w.c x) := by
  have hg : (jumpRound w).g = mul64 w.curM w.g := if_pos h
  have hc : (jumpRound w).c = add64 (mul64 w.curM w.c) w.curI := if_pos h
  rw [hg, hc, ← affine_affine, transition]

/-- A round whose distance bit is 0 leaves the accumulated transform. -/
theorem affine_jumpRound_of_even {w : JumpRegs} (h : w.d.getLsbD 0 = false) (x : Word) :
    affine (jumpRound w).g (jumpRound w).c x = affine w.g w.c x := by
  have hg : (jumpRound w).g = w.g := if_neg (by rw [h]; exact Bool.false_ne_true)
  have hc : (jumpRound w).c = w.c := if_neg (by rw [h]; exact Bool.false_ne_true)
  rw [hg, hc]

end Sys2Proof.Machine
end

