-- ==== Sys2Proof/Laws/Output.lean ====
section
/-! SUPPORT. What the rounding of the normalisation guarantees. -/

namespace Sys2Proof.Machine

/-- The rounded quotient is within half a unit of the exact one. -/
theorem divRoundEven_bounds (n d : Nat) (hd : 0 < d) :
    2 * n ≤ 2 * (divRoundEven n d * d) + d ∧ 2 * (divRoundEven n d * d) ≤ 2 * n + d := by
  have h := Nat.div_add_mod n d
  have hl := Nat.mod_lt n hd
  rw [mul_comm] at h
  unfold divRoundEven
  split <;> (try rw [Nat.add_mul, Nat.one_mul]) <;> omega

/-- Where the exact quotient lies half-way between two naturals, the rounded one is even. -/
theorem divRoundEven_even_of_tie (n d : Nat) (h : 2 * (n % d) = d) : divRoundEven n d % 2 = 0 := by
  unfold divRoundEven
  split <;> omega

/-- The search finds an exponent that scales `n` up to `d`, where there is one in its range. -/
theorem le_mul_pow_scaleFrom (n d fuel k : Nat) (h : d ≤ n * 2 ^ (k + fuel)) : d ≤ n * 2 ^ scaleFrom n d fuel k := by
  induction fuel generalizing k with
  | zero => simpa [scaleFrom] using h
  | succ fuel ih =>
    rw [scaleFrom]
    split
    · assumption
    · exact ih (k + 1) (by rwa [show k + 1 + fuel = k + (fuel + 1) by omega])

/-- The exponent the search finds is the least of its range: one less does not reach `d`. -/
theorem mul_pow_lt_of_lt_scaleFrom (n d fuel k j : Nat) (hj : k ≤ j) (h : j < scaleFrom n d fuel k) : n * 2 ^ j < d := by
  induction fuel generalizing k with
  | zero => simp [scaleFrom] at h; omega
  | succ fuel ih =>
    rw [scaleFrom] at h
    split at h
    · omega
    · next hlt =>
      rcases Nat.eq_or_lt_of_le hj with rfl | hj'
      · omega
      · exact ih (k + 1) hj' h

/-- The exponent the search finds is within its range. -/
theorem scaleFrom_le (n d fuel k : Nat) : scaleFrom n d fuel k ≤ k + fuel := by
  induction fuel generalizing k with
  | zero => simp [scaleFrom]
  | succ fuel ih =>
    rw [scaleFrom]
    split
    · omega
    · have := ih (k + 1)
      omega

end Sys2Proof.Machine
end

