-- ==== Sys2Proof/Laws/PerInstr.lean ====
section
/-! SUPPORT. What holds of every command as syntax, one lemma per constructor. -/

/-- A command's request decodes to the command (R64, R65, R73). -/
def Sys2Proof.Laws.DecodesEncoded.Statement (i : Sys2Proof.Instr) : Prop :=
  Sys2Proof.decode (Sys2Proof.encode i) = .ok i

/-- A command's request is well-formed: its opcode is assigned (R64). -/
def Sys2Proof.Laws.EncodesAssigned.Statement (i : Sys2Proof.Instr) : Prop :=
  (Sys2Proof.encode i).wellFormed = true

namespace Sys2Proof.Laws.DecodesEncoded

theorem mul (a b : Sys2Proof.Word) : Statement (.mul a b) := rfl
theorem add (a b : Sys2Proof.Word) : Statement (.add a b) := rfl
theorem muladd (a b c : Sys2Proof.Word) : Statement (.muladd a b c) := rfl
theorem step : Statement .step := rfl
theorem peek : Statement .peek := rfl
theorem next : Statement .next := rfl
theorem skip (a : Sys2Proof.Word) : Statement (.skip a) := rfl
theorem nthnum (a : Sys2Proof.Word) : Statement (.nthnum a) := rfl
theorem ffwd (a : Sys2Proof.Word) : Statement (.ffwd a) := rfl
theorem jcalc (a : Sys2Proof.Word) : Statement (.jcalc a) := rfl
theorem setseed (a : Sys2Proof.Word) : Statement (.setseed a) := rfl
theorem getseed : Statement .getseed := rfl
theorem setinc (a : Sys2Proof.Word) : Statement (.setinc a) := rfl
theorem getinc : Statement .getinc := rfl
theorem setcount (a : Sys2Proof.Word) : Statement (.setcount a) := rfl
theorem getcount : Statement .getcount := rfl
theorem save : Statement .save := rfl
theorem load (a b c : Sys2Proof.Word) : Statement (.load a b c) := rfl

end Sys2Proof.Laws.DecodesEncoded

namespace Sys2Proof.Laws.EncodesAssigned

theorem mul (a b : Sys2Proof.Word) : Statement (.mul a b) := rfl
theorem add (a b : Sys2Proof.Word) : Statement (.add a b) := rfl
theorem muladd (a b c : Sys2Proof.Word) : Statement (.muladd a b c) := rfl
theorem step : Statement .step := rfl
theorem peek : Statement .peek := rfl
theorem next : Statement .next := rfl
theorem skip (a : Sys2Proof.Word) : Statement (.skip a) := rfl
theorem nthnum (a : Sys2Proof.Word) : Statement (.nthnum a) := rfl
theorem ffwd (a : Sys2Proof.Word) : Statement (.ffwd a) := rfl
theorem jcalc (a : Sys2Proof.Word) : Statement (.jcalc a) := rfl
theorem setseed (a : Sys2Proof.Word) : Statement (.setseed a) := rfl
theorem getseed : Statement .getseed := rfl
theorem setinc (a : Sys2Proof.Word) : Statement (.setinc a) := rfl
theorem getinc : Statement .getinc := rfl
theorem setcount (a : Sys2Proof.Word) : Statement (.setcount a) := rfl
theorem getcount : Statement .getcount := rfl
theorem save : Statement .save := rfl
theorem load (a b c : Sys2Proof.Word) : Statement (.load a b c) := rfl

end Sys2Proof.Laws.EncodesAssigned
end

