-- ==== Sys2Proof/Laws/Step.lean ====
section
/-! SUPPORT. What one step can do, said once: every later proof about a step cites `step_cases`. -/

namespace Sys2Proof.Machine

/-- The command in flight is one transaction at the parameters of this hardware. -/
theorem runCommand_eq_next (req : Request) (s : State) :
    runCommand req s
      = .next (s.commit (transact Config.params req s.regs).1 (transact Config.params req s.regs).2) := by
  unfold runCommand transact
  cases decode req with
  | ok i => exact exec_eq_next i s
  | error e => exact takeIllegal_eq_next s

/-- A step with a command in flight and no reset runs that command. -/
theorem step_of_computing {s : State} {req : Request} (hp : s.phase = .computing req) (hr : NoResetNext s) :
    step s = runCommand req s := by
  cases hi : s.input with
  | nil => simp [step, hi, onQuiet, hp]
  | cons e rest => simp [step, hi, onEdge, hr e rest hi, hp]

/-- A step at an edge with `rst` 1 is reset. -/
theorem step_of_reset {s : State} {e : Edge} {rest : List Edge} (hi : s.input = e :: rest) (he : e.rst = true) :
    step s = .next (s.takeReset.withInput rest) := by
  simp [step, hi, onEdge, he]

/-- A step at an edge with `rst` 0 of a block that is not computing is a transfer on the port. -/
theorem step_of_transfer {s : State} {e : Edge} {rest : List Edge} (hi : s.input = e :: rest) (he : e.rst = false)
    (hp : ∀ req, s.phase ≠ .computing req) : step s = .next (transfer e (s.withInput rest)) := by
  cases h : s.phase with
  | ready => simp [step, hi, onEdge, he, h]
  | computing req => exact absurd h (hp req)
  | answering rsp => simp [step, hi, onEdge, he, h]

/-- A step of a block with nothing on its inputs and no command in flight changes nothing. -/
theorem step_of_idle {s : State} (hi : s.input = []) (hp : ∀ req, s.phase ≠ .computing req) : step s = .next s := by
  cases h : s.phase with
  | ready => simp [step, hi, onQuiet, h]
  | computing req => exact absurd h (hp req)
  | answering rsp => simp [step, hi, onQuiet, h]

/-- Everything a step can do: reset, run the command in flight, one transfer on the port, or nothing. -/
theorem step_cases {s s' : State} (h : step s = .next s') :
    (∃ e rest, s.input = e :: rest ∧ e.rst = true ∧ s' = s.takeReset.withInput rest) ∨
    (∃ req, s.phase = .computing req ∧ NoResetNext s ∧
      s' = s.commit (transact Config.params req s.regs).1 (transact Config.params req s.regs).2) ∨
    (∃ e rest, s.input = e :: rest ∧ e.rst = false ∧ (∀ req, s.phase ≠ .computing req) ∧
      s' = transfer e (s.withInput rest)) ∨
    (s.input = [] ∧ (∀ req, s.phase ≠ .computing req) ∧ s' = s) := by
  by_cases hr : ∃ e rest, s.input = e :: rest ∧ e.rst = true
  · obtain ⟨e, rest, hi, he⟩ := hr
    rw [step_of_reset hi he] at h
    injection h with h
    exact .inl ⟨e, rest, hi, he, h.symm⟩
  · have hn : NoResetNext s := fun e rest hi => by
      cases he : e.rst with
      | false => rfl
      | true => exact absurd ⟨e, rest, hi, he⟩ hr
    by_cases hc : ∃ req, s.phase = .computing req
    · obtain ⟨req, hp⟩ := hc
      rw [step_of_computing hp hn, runCommand_eq_next] at h
      injection h with h
      exact .inr (.inl ⟨req, hp, hn, h.symm⟩)
    · have hp : ∀ req, s.phase ≠ .computing req := fun req h => hc ⟨req, h⟩
      cases hi : s.input with
      | nil =>
        rw [step_of_idle hi hp] at h
        injection h with h
        exact .inr (.inr (.inr ⟨rfl, hp, h.symm⟩))
      | cons e rest =>
        have he : e.rst = false := hn e rest hi
        rw [step_of_transfer hi he hp] at h
        injection h with h
        exact .inr (.inr (.inl ⟨e, rest, rfl, he, hp, h.symm⟩))

/-- A transfer writes no register. -/
@[simp] theorem transfer_regs (e : Edge) (s : State) : (transfer e s).regs = s.regs := by
  unfold transfer
  split <;> (try split) <;> rfl

/-- A transfer takes no edge off the inputs. -/
@[simp] theorem transfer_input (e : Edge) (s : State) : (transfer e s).input = s.input := by
  unfold transfer
  split <;> (try split) <;> rfl

/-! ## The output signals -/

theorem State.rstNext_nil {s : State} (hi : s.input = []) : s.rstNext = false := by
  simp [State.rstNext, hi]

theorem State.rstNext_cons {s : State} {e : Edge} {rest : List Edge} (hi : s.input = e :: rest) :
    s.rstNext = e.rst := by
  simp [State.rstNext, hi]

/-- `rst` is 0 at the next edge, or there is none. -/
theorem State.rstNext_eq_false_iff (s : State) : s.rstNext = false ↔ NoResetNext s := by
  cases hi : s.input with
  | nil => simp [State.rstNext, NoResetNext, hi]
  | cons e rest => simp [State.rstNext, NoResetNext, hi]

@[simp] theorem State.held_eq_some_iff (s : State) (rsp : Response) : s.held = some rsp ↔ s.phase = .answering rsp := by
  cases h : s.phase <;> simp [State.held, h]

/-- A response is offered where it is held and `rst` is 0 (R75, R210). -/
theorem State.offered_eq_some_iff (s : State) (rsp : Response) :
    s.offered = some rsp ↔ NoResetNext s ∧ s.phase = .answering rsp := by
  rw [← State.rstNext_eq_false_iff]
  cases h : s.rstNext <;> simp [State.offered, h]

/-- While `rst` is 1 no response is offered (R210). -/
theorem State.rspValid_of_rstNext {s : State} (h : s.rstNext = true) : s.rspValid = false := by
  simp [State.rspValid, State.offered, h]

/-- What a step delivers: nothing, or, at an edge where `rsp_valid` and `rsp_ready` are both 1, the response offered
(R75). -/
theorem delivered_of_step {s s' : State} (h : step s = .next s') :
    s'.delivered = s.delivered ∨
    (∃ e rest rsp, s.input = e :: rest ∧ s.offered = some rsp ∧ e.rspReady = true ∧
      s'.delivered = s.delivered ++ [rsp]) := by
  obtain ⟨e, rest, -, -, rfl⟩ | ⟨req, -, -, rfl⟩ | ⟨e, rest, hi, he, hp, rfl⟩ | ⟨-, -, rfl⟩ := step_cases h
  · exact .inl rfl
  · exact .inl rfl
  · cases h : s.phase with
    | computing req => exact absurd h (hp req)
    | ready => left; cases hv : e.reqValid <;> simp [transfer, h, hv]
    | answering rsp =>
      cases hv : e.rspReady with
      | false => left; simp [transfer, h, hv]
      | true =>
        refine .inr ⟨e, rest, rsp, hi, ?_, hv, by simp [transfer, h, hv]⟩
        simp [State.offered, State.rstNext_cons hi, he, h]
  · exact .inl rfl

/-- What a step accepts: nothing, or, at an edge where `req_valid` and `req_ready` are both 1 and `rst` is 0, the
request on the port (R75). -/
theorem accepted_of_step {s s' : State} {req : Request} (h : step s = .next s') (hc : s'.phase = .computing req) :
    ∃ e rest, s.input = e :: rest ∧ e.rst = false ∧ e.reqValid = true ∧ s.reqReady = true ∧ e.req = req := by
  obtain ⟨e, rest, -, -, rfl⟩ | ⟨r, -, -, rfl⟩ | ⟨e, rest, hi, he, hp, rfl⟩ | ⟨-, hp, rfl⟩ := step_cases h
  · simp at hc
  · simp at hc
  · cases h : s.phase with
    | computing r => exact absurd h (hp r)
    | ready =>
      cases hv : e.reqValid with
      | false => simp [transfer, h, hv] at hc
      | true =>
        refine ⟨e, rest, hi, he, hv, by simp [State.reqReady, State.rstNext_cons hi, he, h], ?_⟩
        simpa [transfer, h, hv] using hc
    | answering rsp => cases hv : e.rspReady <;> simp [transfer, h, hv] at hc
  · exact absurd hc (hp req)

/-- The state `withFetchWord` builds runs the placed request next. -/
theorem step_withFetchWord (s : State) (nbits w : Nat) :
    step (s.withFetchWord nbits w) = runCommand (requestOfTableWord nbits w) (s.withFetchWord nbits w) := by
  refine step_of_computing rfl fun e rest h => ?_
  have h' : s.input.dropWhile (fun e => e.rst) = e :: rest := h
  have := List.head?_dropWhile_not (fun e : Edge => e.rst) s.input
  rw [h'] at this
  simpa using this

end Sys2Proof.Machine
end

