-- ==== Sys2Proof/Tests/Slice0.lean ====
section
/-! SUPPORT. The model's own tests. Every expected value is a vector of spec/95_test_vectors.md (named in the test) or is
worked out from a rule; the witnesses show that the hypotheses of the obligations can be met. -/

namespace Sys2Proof.Tests

open Sys2Proof.Machine

/-! ## Helpers -/

/-- A ready block with the registers given, nothing on its port. -/
def block (state seed count inc : Word) : State := ⟨⟨state, seed, count, inc⟩, .ready, [], []⟩

/-- The registers and the offered response after a step that goes on. -/
def after (o : Host.Outcome State Fault Refusal) : Option (Regs × Option Response) :=
  match o with
  | .next s => some (s.regs, s.offered)
  | .fault _ => none
  | .refused _ => none

/-- A build of this hardware with another multiplier and another prestep. -/
def build (mult : Word) (p : Fin 2) : Params := ⟨mult, 0x14057b7ef767814f, 1, p⟩

/-- The default increment. -/
abbrev defaultInc : Word := 0x14057b7ef767814f

/-- The default multiplier. -/
abbrev defaultMult : Word := 0x27bb2ee687b0b0fd

/-! ## WellFormed: what each check refuses -/

theorem test_wellFormed_refuses_zero_opcode : Request.wellFormed ⟨0x00, 1, 2, 3⟩ = false := by decide
theorem test_wellFormed_refuses_opcode_past_table : Request.wellFormed ⟨0x13, 1, 2, 3⟩ = false := by decide
theorem test_wellFormed_takes_last_opcode : Request.wellFormed ⟨0x12, 1, 2, 3⟩ = true := by decide
theorem test_wellFormed_refuses_zero_default_seed : Params.wellFormed ⟨3, 5, 0, 1⟩ = false := by decide
theorem test_wellFormed_takes_every_operand : Instr.wellFormed (.load 0 0xffffffffffffffff 0) = true := by decide

/-! ## Decoding: one word per command, as spec/95_test_vectors.md writes it (R60, R64) -/

theorem test_decode_mul : decodeWord 0x000000000000000027bb2ee687b0b0fd00000000000154c201
    = .ok (.mul 0x154c2 0x27bb2ee687b0b0fd) := by decide
theorem test_decode_add : decodeWord 0x0000000000000000ffffffff0000000100000000ffffffff02
    = .ok (.add 0xffffffff 0xffffffff00000001) := by decide
theorem test_decode_muladd : decodeWord 0x14057b7ef767814f27bb2ee687b0b0fd00000000000154c203
    = .ok (.muladd 0x154c2 0x27bb2ee687b0b0fd 0x14057b7ef767814f) := by decide
theorem test_decode_step : decodeWord 0x00000000000000000000000000000000000000000000000004 = .ok .step := by decide
theorem test_decode_peek : decodeWord 0x00000000000000000000000000000000000000000000000005 = .ok .peek := by decide
theorem test_decode_next : decodeWord 0x00000000000000000000000000000000000000000000000006 = .ok .next := by decide
theorem test_decode_skip : decodeWord 0x00000000000000000000000000000000800000000000000707
    = .ok (.skip 0x8000000000000007) := by decide
theorem test_decode_nthnum : decodeWord 0x00000000000000000000000000000000000000000000038008
    = .ok (.nthnum 896) := by decide
theorem test_decode_ffwd : decodeWord 0x00000000000000000000000000000000fffffffffffffffd09
    = .ok (.ffwd 0xfffffffffffffffd) := by decide
theorem test_decode_jcalc : decodeWord 0x0000000000000000000000000000000000000001000000050a
    = .ok (.jcalc 0x100000005) := by decide
theorem test_decode_setseed : decodeWord 0x000000000000000000000000000000000123456789abcdef0b
    = .ok (.setseed 0x0123456789abcdef) := by decide
theorem test_decode_getseed : decodeWord 0x0000000000000000000000000000000000000000000000000c = .ok .getseed := by decide
theorem test_decode_setinc : decodeWord 0x0000000000000000000000000000000014057b7ef76781510d
    = .ok (.setinc 0x14057b7ef7678151) := by decide
theorem test_decode_getinc : decodeWord 0x0000000000000000000000000000000000000000000000000e = .ok .getinc := by decide
theorem test_decode_setcount : decodeWord 0x0000000000000000000000000000000000000000000000030f
    = .ok (.setcount 3) := by decide
theorem test_decode_getcount : decodeWord 0x00000000000000000000000000000000000000000000000010 = .ok .getcount := by decide
theorem test_decode_save : decodeWord 0x00000000000000000000000000000000000000000000000011 = .ok .save := by decide
theorem test_decode_load : decodeWord 0x000000000000000500000000000000020123456789abcdef12
    = .ok (.load 0x0123456789abcdef 2 5) := by decide
/-- Vectors V-L1 to V-L4. -/
theorem test_decode_unassigned :
    decodeWord 0x00000000000000030000000000000002000000000000000100 = .error (.unassignedOpcode 0x00) ∧
    decodeWord 0x00000000000000030000000000000002000000000000000113 = .error (.unassignedOpcode 0x13) ∧
    decodeWord 0x00000000000000030000000000000002000000000000000180 = .error (.unassignedOpcode 0x80) ∧
    decodeWord 0x000000000000000300000000000000020000000000000001ff = .error (.unassignedOpcode 0xff) := by decide
theorem test_decodeTableWord_skip : decodeTableWord 200 0x38107 = some (.skip 897) := by decide
theorem test_decodeTableWord_short_row : decodeTableWord 8 0x38107 = some (.skip 0) := by decide
theorem test_encode_load : encodeWord (.load 0x0123456789abcdef 2 5)
    = 0x000000000000000500000000000000020123456789abcdef12 := by decide
/-- The packed response of vector V-J2, by R61. -/
theorem test_packResponse : packResponse ⟨.illegal, 0x10, 0x20, 0x30⟩
    = 0x00000000000000300000000000000020000000000000001001 := by decide

/-! ## Arithmetic -/

/-- V-A2: MAX × MAX = 1. -/
theorem test_mul_wraps : after (exec (.mul 0xffffffffffffffff 0xffffffffffffffff) (block 1 2 3 4))
    = some (⟨1, 2, 3, 4⟩, some ⟨.ok, 1, 0, 0⟩) := by decide
/-- V-A10 by halves. -/
theorem test_mul_halves : mulHalves 0x154c2 0x27bb2ee687b0b0fd = 0xb623b6e97ef623ba := by decide
/-- V-A13: the carry between the halves. -/
theorem test_add_carries : after (exec (.add 0xffffffff 1) (block 1 2 3 4))
    = some (⟨1, 2, 3, 4⟩, some ⟨.ok, 0x100000000, 0, 0⟩) := by decide
/-- V-A17 by halves. -/
theorem test_add_halves : addHalves 0xffffffff 0xffffffff00000001 = 0 := by decide
/-- V-A18. -/
theorem test_muladd : after (exec (.muladd 0x154c2 defaultMult defaultInc) (block 1 2 3 4))
    = some (⟨1, 2, 3, 4⟩, some ⟨.ok, 0xca293268765da509, 0, 0⟩) := by decide

/-! ## Transition and output -/

/-- V-T1, from COUNT at its last value (R111: the wrap). -/
theorem test_step_wraps_count : after (exec .step (block 87234 87234 0xffffffffffffffff defaultInc))
    = some (⟨0xca293268765da509, 87234, 0, defaultInc⟩, some ⟨.ok, 0, 0, 0⟩) := by decide
/-- V-O7. -/
theorem test_peek : after (exec .peek (block 0x0123456789abcdef 7 8 9))
    = some (⟨0x0123456789abcdef, 7, 8, 9⟩, some ⟨.ok, 0x2468a5eb, 0x3fc23452f5923453, 0⟩) := by decide
/-- V-O2: rotation 31. -/
theorem test_peek_rotation : xshrr 0xffffffffffffffff = 0xfff00001 := by decide
/-- V-O4: the 33-bit value before the truncation (C1). -/
theorem test_xshrr_truncates : xshrr 0x0800000000000000 = 0x2000 := by decide
/-- V-O5: rotation 16. -/
theorem test_xshrr_rotates : xshrr 0x8000000000000000 = 4 := by decide
/-- V-O11, V-O13 to V-O16. -/
theorem test_normBits : normBits 1 = 0x3df0000000100000 ∧ normBits 0x7fffffff = 0x3fdfffffffe00000 ∧
    normBits 0x80000000 = 0x3fe0000000100000 ∧ normBits 0xfffffffe = 0x3fefffffffe00000 ∧
    normBits 0xffffffff = 0x3ff0000000000000 := by decide
/-- V-T2: the output is that of the new state. -/
theorem test_next_outputs_new_state : after (exec .next (block 0 9 0 defaultInc))
    = some (⟨defaultInc, 9, 1, defaultInc⟩, some ⟨.ok, 0x602bf3fd, 0x3fd80afcff580afd, 0⟩) := by decide
/-- V-T3, the third NEXT. -/
theorem test_next_third : after (exec .next (block 0x07fdc49b8899cb34 87234 2 defaultInc))
    = some (⟨0x589ea3bad2d913b3, 87234, 3, defaultInc⟩, some ⟨.ok, 0x75e27ad6, 0x3fdd789eb59d789f, 0⟩) := by decide

/-! ## Jumps -/

/-- V-S1. -/
theorem test_skip_897 : after (exec (.skip 897) (block 87234 87234 0 defaultInc))
    = some (⟨0xd5a375f233550889, 87234, 897, defaultInc⟩, some ⟨.ok, 0x1a04d76d, 0x3fba04d76d1a04d7, 0⟩) := by decide
/-- V-S5: every bit of the distance. -/
theorem test_skip_all_ones : after (exec (.skip 0xffffffffffffffff) (block 87234 87234 0 defaultInc))
    = some (⟨0x0987a0073f15392f, 87234, 0xffffffffffffffff, defaultInc⟩,
        some ⟨.ok, 0x187a266d, 0x3fb87a266d187a26, 0⟩) := by decide +kernel
/-- V-H3, from another STATE and COUNT. -/
theorem test_nthnum : (after (exec (.nthnum 896) (block 5 87234 77 defaultInc))).map (fun x => (x.1, x.2.map (·.q0)))
    = some (⟨0xd5a375f233550889, 87234, 897, defaultInc⟩, some 0x1a04d76d) := by decide
/-- V-H7: the build with `P_NTHNUM_PRESTEP = 0`. -/
theorem test_nthnum_without_prestep : (command (build defaultMult 0) (.nthnum 897) ⟨5, 87234, 77, defaultInc⟩).1
    = ⟨0xd5a375f233550889, 87234, 897, defaultInc⟩ := by decide
/-- V-F3: REWIND 1. -/
theorem test_ffwd_rewinds : after (exec (.ffwd 0xffffffffffffffff) (block 0xca293268765da509 87234 1 defaultInc))
    = some (⟨87234, 87234, 0, defaultInc⟩, some ⟨.ok, 0, 0, 0⟩) := by decide +kernel
/-- V-F6: an even multiplier. -/
theorem test_ffwd_even_multiplier : (command (build 2 1) (.ffwd 0x8000000000000000) ⟨5, 5, 0, defaultInc⟩).1.state
    = 0xebfa848108987eb1 := by decide +kernel
/-- V-J5, the traced calculation. -/
theorem test_jcalc_five : after (exec (.jcalc 5) (block 1 2 3 defaultInc))
    = some (⟨1, 2, 3, defaultInc⟩, some ⟨.ok, 0xff24fc89523a040d, 0x37d3d4e7f9ec65d3, 0⟩) := by decide
/-- V-J9. -/
theorem test_jcalc_all_ones : jump 0xffffffffffffffff defaultMult defaultInc
    = (0xdfe66807999cec55, 0x5ac2b2406c493cc5) := by decide +kernel

/-! ## Session -/

/-- V-E2: zero is a value. -/
theorem test_setseed_zero : after (exec (.setseed 0) (block 1 2 3 4))
    = some (⟨0, 0, 0, 4⟩, some ⟨.ok, 0, 0, 0⟩) := by decide
/-- V-E3. -/
theorem test_getseed : after (exec .getseed (block 0xde95afd76a8aa19c 87234 10 defaultInc))
    = some (⟨0xde95afd76a8aa19c, 87234, 10, defaultInc⟩, some ⟨.ok, 0x154c2, 0, 0⟩) := by decide
/-- V-E4, its first command. -/
theorem test_setinc : after (exec (.setinc 0x14057b7ef7678151) (block 0xde95afd76a8aa19c 87234 10 defaultInc))
    = some (⟨0xde95afd76a8aa19c, 87234, 10, 0x14057b7ef7678151⟩, some ⟨.ok, 0, 0, 0⟩) := by decide
/-- V-E4, its second command. -/
theorem test_next_after_setinc : after (exec .next (block 0xde95afd76a8aa19c 87234 10 0x14057b7ef7678151))
    = some (⟨0xe6abf152f0c4787d, 87234, 11, 0x14057b7ef7678151⟩,
        some ⟨.ok, 0x5791f01d, 0x3fd5e47c0755e47c, 0⟩) := by decide
/-- V-E5. -/
theorem test_getinc_after_reset : ((after (exec .getinc State.reset)).bind (·.2)).map (·.q0) = some defaultInc := by decide
/-- V-E6. -/
theorem test_setcount : after (exec (.setcount 3) (block 5 87234 12345 defaultInc))
    = some (⟨0x589ea3bad2d913b3, 87234, 3, defaultInc⟩, some ⟨.ok, 0, 0, 0⟩) := by decide
/-- V-E8. -/
theorem test_getcount : after (exec .getcount (block 1 2 897 4))
    = some (⟨1, 2, 897, 4⟩, some ⟨.ok, 0x381, 0, 0⟩) := by decide
/-- V-E9. -/
theorem test_save : after (exec .save (block 0xd5a375f233550889 87234 897 defaultInc))
    = some (⟨0xd5a375f233550889, 87234, 897, defaultInc⟩, some ⟨.ok, 0x154c2, 0x381, defaultInc⟩) := by decide
/-- V-E10. -/
theorem test_load : after (exec (.load 0x0123456789abcdef 2 5) (block 1 2 3 4))
    = some (⟨0x7e02aa27a2df385d, 0x0123456789abcdef, 2, 5⟩, some ⟨.ok, 0, 0, 0⟩) := by decide
/-- V-E11: a LOAD of an inconsistent SAVE. -/
theorem test_load_inconsistent : after (exec (.load 87234 10 0x14057b7ef7678151) (block 1 2 3 4))
    = some (⟨0xee87a849a487a848, 87234, 10, 0x14057b7ef7678151⟩, some ⟨.ok, 0, 0, 0⟩) := by decide

/-! ## The port, the exception and reset -/

/-- A block with a request in flight and the edges given. -/
def inFlight (req : Request) (edges : List Edge) : State :=
  ⟨⟨87234, 87234, 0, defaultInc⟩, .computing req, edges, []⟩

/-- An edge with `rst` 1, a command offered and the response taken. -/
def resetEdge : Edge := ⟨true, true, ⟨0x06, 0, 0, 0⟩, true⟩

/-- V-L3. -/
theorem test_illegal_writes_nothing : after (step (inFlight ⟨0x80, 1, 2, 3⟩ []))
    = some (⟨87234, 87234, 0, defaultInc⟩, some ⟨.illegal, 0, 0, 0⟩) := by decide
/-- V-Q2: the SKIP in flight is abandoned. -/
theorem test_reset_abandons : (match step (inFlight ⟨0x07, 897, 0, 0⟩ [resetEdge]) with
    | .next s => some (s.regs.count, s.regs.inc, s.phase, s.delivered)
    | _ => none) = some (0, defaultInc, .ready, []) := by decide
/-- No response is offered at an edge with `rst` 1, and the one held is offered where `rst` is 0 (R210, R75). -/
theorem test_reset_offers_nothing :
    ({ block 1 2 3 4 with phase := .answering ⟨.ok, 5, 6, 7⟩, input := [resetEdge] } : State).rspValid = false ∧
    ({ block 1 2 3 4 with phase := .answering ⟨.ok, 5, 6, 7⟩, input := [takeEdge] } : State).offered
      = some ⟨.ok, 5, 6, 7⟩ := by decide
/-- V-T1 from the port: accepted, run and delivered in three steps (R75). -/
theorem test_port_serves_step : (match Sys2Proof.core.run 3 { block 87234 87234 0 defaultInc with
      input := serveEdges ⟨0x04, 0, 0, 0⟩ } with
    | .next s => some (s.regs.state, s.phase, s.input, s.delivered)
    | _ => none) = some (0xca293268765da509, .ready, [], [⟨.ok, 0, 0, 0⟩]) := by decide
/-- A request offered while a response is outstanding is not accepted (R76, R216). -/
theorem test_port_holds_second_request : (match step { block 1 2 3 4 with
      phase := .answering ⟨.ok, 5, 6, 7⟩, input := [offerEdge ⟨0x04, 0, 0, 0⟩] } with
    | .next s => some (s.regs, s.phase, s.input)
    | _ => none) = some (⟨1, 2, 3, 4⟩, .answering ⟨.ok, 5, 6, 7⟩, []) := by decide
/-- The placed word is what the next step runs, even with a reset at the head of the inputs. -/
theorem test_withFetchWord_runs :
    after (step (({ block 87234 87234 0 defaultInc with input := [resetEdge] }).withFetchWord 8 0x04))
    = some (⟨0xca293268765da509, 87234, 1, defaultInc⟩, some ⟨.ok, 0, 0, 0⟩) := by decide

/-! ## The host's tooling -/

/-- The six words and the bytes of V-E9's image. -/
theorem test_image : imageOfSave ⟨.ok, 0x154c2, 0x381, defaultInc⟩ = [0x000154c2, 0, 0x381, 0, 0xf767814f, 0x14057b7e] ∧
    imageBytes (imageOfSave ⟨.ok, 0x154c2, 0x381, defaultInc⟩)
      = [0xc2, 0x54, 0x01, 0, 0, 0, 0, 0, 0x81, 0x03, 0, 0, 0, 0, 0, 0,
         0x4f, 0x81, 0x67, 0xf7, 0x7e, 0x7b, 0x05, 0x14] := by decide
/-- Program P4, requests 1 to 4 and 8 to 9. -/
theorem test_seed_halves :
    (runHost Config.params (setseedhi 0x01234567 ++ setseedlo 0x89abcdef) 0 ⟨1, 0xdeadbeef, 3, defaultInc⟩).1
      = ⟨0x0123456789abcdef, 0x0123456789abcdef, 0, defaultInc⟩ ∧
    (runHost Config.params (setseedlo 0) 0 ⟨1, 0x0123456789abcdef, 3, defaultInc⟩).1.seed = 0x0123456700000000 := by
  decide
/-- Program P2, request 10, as a source line with separators and a comment (R73). -/
theorem test_assemble_load :
    (assembleLine "LOAD 0x0123_4567_89abcdef, 1000, 0x14057b7ef767814f ; restore".toList).toOption.map
      (fun p => p.map fun h => encodeWord (h 0))
      = some [0x14057b7ef767814f00000000000003e80123456789abcdef12] := by decide
/-- What the assembler refuses (R73). -/
theorem test_assemble_refuses :
    (assembleLine "SKIP".toList).toOption.isNone = true ∧ (assembleLine "SKIP 0x".toList).toOption.isNone = true ∧
    (assembleLine "JUMP 3".toList).toOption.isNone = true ∧ (assembleLine "NEXT 1".toList).toOption.isNone = true := by
  decide
/-- Two lines, one of them the pseudo-command SETINC without an operand (R74). -/
theorem test_assemble_text :
    (assemble "SETINC\nREWIND 2 ; back\n".toList).toOption.map (fun p => p.map fun h => h 0)
      = some [.ffwd 0xfffffffffffffffe] := by decide

/-! ## Witnesses: the hypotheses of the obligations can be met -/

theorem witness_OpcodeAloneSelectsCommand :
    Request.wellFormed ⟨0x01, 1, 2, 3⟩ = true ∧ Request.wellFormed ⟨0x12, 1, 2, 3⟩ = true ∧
    Request.wellFormed ⟨0x00, 1, 2, 3⟩ = false ∧ Request.wellFormed ⟨0x13, 1, 2, 3⟩ = false := by decide

theorem witness_UnlistedFieldsAreIgnored :
    decode ⟨0x07, 897, 2, 3⟩ = .ok (.skip 897) ∧ (⟨0x07, 897, 5, 6⟩ : Request).op = (⟨0x07, 897, 2, 3⟩ : Request).op ∧
    (listsA (.skip 897) = true → (⟨0x07, 897, 5, 6⟩ : Request).a = (⟨0x07, 897, 2, 3⟩ : Request).a) ∧
    (listsB (.skip 897) = true → (⟨0x07, 897, 5, 6⟩ : Request).b = (⟨0x07, 897, 2, 3⟩ : Request).b) ∧
    (listsC (.skip 897) = true → (⟨0x07, 897, 5, 6⟩ : Request).c = (⟨0x07, 897, 2, 3⟩ : Request).c) := by decide

/-- A state with a request in flight and an edge with `rst` 0 next. -/
theorem noResetNext_take (req : Request) : NoResetNext (inFlight req [takeEdge]) := by
  intro e rest h
  cases h
  rfl

theorem witness_UnassignedOpcodeIsAnsweredIllegal :
    (inFlight ⟨0x13, 1, 2, 3⟩ [takeEdge]).phase = .computing ⟨0x13, 1, 2, 3⟩ ∧
    NoResetNext (inFlight ⟨0x13, 1, 2, 3⟩ [takeEdge]) ∧ 0x13 ≤ (⟨0x13, 1, 2, 3⟩ : Request).op.toNat ∧
    NoResetNext (inFlight ⟨0x00, 1, 2, 3⟩ [takeEdge]) ∧ (⟨0x00, 1, 2, 3⟩ : Request).op = 0x00 :=
  ⟨rfl, noResetNext_take _, by decide, noResetNext_take _, rfl⟩

theorem witness_BlockGoesOnAfterIllegal :
    Request.wellFormed ⟨0xff, 1, 2, 3⟩ = false ∧
    (inFlight ⟨0xff, 1, 2, 3⟩ [takeEdge, offerEdge ⟨0x04, 0, 0, 0⟩]).phase = .computing ⟨0xff, 1, 2, 3⟩ ∧
    (inFlight ⟨0xff, 1, 2, 3⟩ [takeEdge, offerEdge ⟨0x04, 0, 0, 0⟩]).input
      = takeEdge :: offerEdge ⟨0x04, 0, 0, 0⟩ :: [] := by decide

/-- Also of `CommandInFlightIsAnswered`. -/
theorem witness_StepRunsDecodedCommand :
    (inFlight ⟨0x07, 897, 0, 0⟩ [takeEdge]).phase = .computing ⟨0x07, 897, 0, 0⟩ ∧
    NoResetNext (inFlight ⟨0x07, 897, 0, 0⟩ [takeEdge]) ∧ decode ⟨0x07, 897, 0, 0⟩ = .ok (.skip 897) :=
  ⟨rfl, noResetNext_take _, rfl⟩

theorem witness_RegistersChangeOnlyWithResponse :
    ∃ t, step (inFlight ⟨0x0D, 5, 0, 0⟩ []) = .next t ∧ t.regs ≠ (inFlight ⟨0x0D, 5, 0, 0⟩ []).regs :=
  ⟨_, rfl, by decide⟩

/-- The four clauses: ready with and without a valid request, answering with and without a ready host. -/
theorem witness_PortTransfersAndIdling :
    (offerEdge ⟨0x04, 0, 0, 0⟩).rst = false ∧ (offerEdge ⟨0x04, 0, 0, 0⟩).reqValid = true ∧
    (offerEdge ⟨0x04, 0, 0, 0⟩).rspReady = false ∧ takeEdge.rst = false ∧ takeEdge.reqValid = false ∧
    takeEdge.rspReady = true ∧ (block 1 2 3 4).phase = .ready ∧
    ({ block 1 2 3 4 with phase := .answering ⟨.ok, 0, 0, 0⟩ } : State).phase = .answering ⟨.ok, 0, 0, 0⟩ := by decide

/-- The clause of an idle block. -/
theorem witness_PortTransfersAndIdling_idle : (block 1 2 3 4).input = [] ∧ (block 1 2 3 4).phase = .ready := by decide

/-- Two requests, the second with an unassigned opcode, and an edge left over. -/
theorem witness_PortRefinesTransactions :
    ({ block 1 2 3 4 with
        input := [offerEdge ⟨0x04, 0, 0, 0⟩, takeEdge, offerEdge ⟨0x13, 0, 0, 0⟩, takeEdge, resetEdge] } : State).input
      = [⟨0x04, 0, 0, 0⟩, ⟨0x13, 0, 0, 0⟩].flatMap serveEdges ++ [resetEdge] ∧ (block 1 2 3 4).phase = .ready := by decide

theorem witness_ResetEdgeAbandonsEverything :
    (inFlight ⟨0x07, 897, 0, 0⟩ [resetEdge]).input = resetEdge :: [] ∧ resetEdge.rst = true ∧
    ({ block 1 2 3 4 with phase := .answering ⟨.ok, 5, 6, 7⟩, input := [resetEdge] } : State).input = resetEdge :: [] := by
  decide

/-- Also of `CountAdvancesByDistance`, `RepeatedCommands` and `UnlistedResultsAreZero`. -/
theorem witness_CommandsWriteOnlyTheirRegisters :
    writesSeed .step = false ∧ writesInc .step = false ∧ writesStateCount (.setinc 5) = false ∧
    (writesSeed .peek = false ∧ writesInc .peek = false ∧ writesStateCount .peek = false) ∧
    advanceOf (.skip 5) = some 5 ∧ (5 : Word) ≠ 0 ∧ advanceOf .next = some 1 ∧ advanceOf (.setcount 5) = none ∧
    listsQ0 .step = false ∧ listsQ1 .getseed = false ∧ listsQ2 .peek = false := by decide

theorem witness_LowStateBitsNeverReachOutput :
    (0x0123456789abcdef : Word) ≠ 0x012345678e543210 ∧
    (0x0123456789abcdef : Word).toNat / 2 ^ 27 = (0x012345678e543210 : Word).toNat / 2 ^ 27 := by decide

theorem witness_NormIsNearestBinary64 : f64Finite 0x7fefffffffffffff ∧ f64Finite 0x8000000000000001 := by
  unfold f64Finite
  decide

theorem witness_NormIsStrictlyMonotone : (0 : Half).toNat < (1 : Half).toNat ∧
    (0xfffffffe : Half).toNat < (0xffffffff : Half).toNat := by decide

theorem witness_OddTransitionHasNoFixedPoint : defaultMult.toNat % 2 = 1 ∧ defaultInc.toNat % 2 = 1 := by decide

theorem witness_NthnumAnswersFromSeed : (build defaultMult 0).nthnumPrestep = 0 := by decide

/-- Each disjunct, at the bounds: a wrapping sum on an odd build, the greatest sum that does not wrap on an even one. -/
theorem witness_JumpsCompose :
    (build defaultMult 1).mult.toNat % 2 = 1 ∧
    ((build 2 1).mult.toNat % 2 = 0 ∧ (0x8000000000000000 : Word).toNat + (0x7fffffffffffffff : Word).toNat < 2 ^ 64) := by
  decide

theorem witness_OddMultiplierRewinds : (1 : Word).toNat % 2 = 1 ∧ (build defaultMult 1).mult.toNat % 2 = 1 := by decide

/-- A consistent register set at COUNT 0 and one at COUNT 1; also of the consistency statements. -/
theorem witness_SaveLoadRoundTrip :
    Consistent Config.params ⟨87234, 87234, 0, defaultInc⟩ ∧
    Consistent Config.params ⟨0xca293268765da509, 87234, 1, defaultInc⟩ :=
  ⟨rfl, by unfold Consistent; decide⟩

theorem witness_CommandsThatMakeConsistent :
    (build 2 1).mult.toNat % 2 = 0 ∧ (0xfffffffffffffffe : Word).toNat + 1 < 2 ^ 64 ∧
    (build defaultMult 1).mult.toNat % 2 = 1 := by decide

theorem witness_OddMultiplierKeepsConsistency :
    (build defaultMult 1).mult.toNat % 2 = 1 ∧ Consistent (build defaultMult 1) ⟨87234, 87234, 0, defaultInc⟩ ∧
    (∀ v, Instr.setinc defaultInc = .setinc v → v = (⟨87234, 87234, 0, defaultInc⟩ : Regs).inc) :=
  ⟨rfl, rfl, fun _ h => (Instr.setinc.inj h).symm⟩

theorem witness_EveryStepKeepsConsistency :
    ∃ t, Consistent Config.params (inFlight ⟨0x07, 897, 0, 0⟩ []).regs ∧
      step (inFlight ⟨0x07, 897, 0, 0⟩ []) = .next t ∧
      ∀ req v, (inFlight ⟨0x07, 897, 0, 0⟩ []).phase = .computing req → decode req = .ok (.setinc v) →
        v = (inFlight ⟨0x07, 897, 0, 0⟩ []).regs.inc :=
  ⟨_, rfl, rfl, fun _ _ h hd => by cases h; cases hd⟩

theorem witness_EveryStepKeepsResponsesWellFormed :
    ∃ t, ResponsesWellFormed (inFlight ⟨0x13, 1, 2, 3⟩ []) ∧ step (inFlight ⟨0x13, 1, 2, 3⟩ []) = .next t :=
  ⟨_, ⟨fun _ h => by simp [inFlight, State.held] at h, fun _ h => by simp [inFlight] at h⟩, rfl⟩

theorem witness_AssignedOpcodesKeepResponsesOk :
    ∃ t, NoIllegalResponse (inFlight ⟨0x12, 1, 2, 3⟩ []) ∧ step (inFlight ⟨0x12, 1, 2, 3⟩ []) = .next t ∧
      ∀ req, (inFlight ⟨0x12, 1, 2, 3⟩ []).phase = .computing req → req.wellFormed = true :=
  ⟨_, ⟨fun _ h => by simp [inFlight, State.held] at h, fun _ h => by simp [inFlight] at h⟩, rfl, fun _ h => by cases h; rfl⟩

theorem witness_PersistedImageRoundTrip : ([1, 2, 3, 4, 5, 6, 7] : List Half).length ≠ 6 := by decide

/-- Each clause at its bounds: no operand, three, one too many for SAVE and for LOAD, and SETINC with two. -/
theorem witness_AssemblerReducesOperands :
    ([] : List Int).length = operandCount .save ∧ ([-1, 2 ^ 64, 5] : List Int).length = operandCount (.load 0 0 0) ∧
    ([0] : List Int).length ≠ operandCount .save ∧ ([1, 2, 3, 4] : List Int).length ≠ operandCount (.load 0 0 0) ∧
    ([] : List Int).length ≠ operandCount (.skip 0) ∧ (Instr.mnemonic (.skip 0) = "SETINC" → ([] : List Int) ≠ []) ∧
    ([1, 2] : List Int).length ≠ operandCount (.setinc 0) ∧ (Instr.mnemonic (.setinc 0) = "SETINC" → ([1, 2] : List Int) ≠ []) := by
  decide

end Sys2Proof.Tests
end

/-! SUPPORT. The jump calculator computes the iterated transition (R130, R131), and on a build with an odd multiplier the
iterated transition depends on its exponent modulo 2^64 only (R139). -/

namespace Sys2Proof.Machine

/-! ## The calculator -/

/-- `k` steps of the transform a round leaves are `2k` steps of the one it took. -/
theorem transitionPow_jumpRound (w : JumpRegs) (k : Nat) (x : Word) :
    transitionPow (jumpRound w).curM (jumpRound w).curI k x = transitionPow w.curM w.curI (2 * k) x := by
  have hstep : transition (jumpRound w).curM (jumpRound w).curI = (transition w.curM w.curI)^[2] :=
    funext (transition_jumpRound w)
  rw [transitionPow, hstep, transitionPow, Function.iterate_mul]

/-- The invariant of the calculator: with rounds enough for the distance, the accumulated transform ends as itself
followed by one running transform per unit of distance. -/
theorem affine_jumpRounds (n : Nat) (w : JumpRegs) (x : Word) (hd : w.d.toNat < 2 ^ n) :
    affine (jumpRounds n w).g (jumpRounds n w).c x
      = transitionPow w.curM w.curI w.d.toNat (affine w.g w.c x) := by
  induction n generalizing w with
  | zero =>
    have h0 : w.d.toNat = 0 := by omega
    rw [h0, transitionPow_zero, jumpRounds]
  | succ n ih =>
    rw [jumpRounds]
    split
    · next h => simp [h, transitionPow_zero]
    · have hhalf : (jumpRound w).d.toNat = w.d.toNat / 2 := jumpRound_d_toNat w
      rw [ih (jumpRound w) (by omega), transitionPow_jumpRound, hhalf]
      have hbit : w.d.getLsbD 0 = decide (w.d.toNat % 2 = 1) := by simp [BitVec.getLsbD, Nat.testBit_zero]
      rcases Nat.mod_two_eq_zero_or_one w.d.toNat with hmod | hmod
      · rw [affine_jumpRound_of_even (by rw [hbit, hmod]; rfl)]
        congr 1
        omega
      · rw [affine_jumpRound_of_odd (by rw [hbit, hmod]; rfl), ← transitionPow_one, ← transitionPow_add]
        congr 1
        omega

/-- A jump of distance `d` is `d` transitions (R131). -/
theorem jumpFrom_eq_transitionPow (d m i x : Word) : jumpFrom d m i x = transitionPow m i d.toNat x := by
  have hid : affine 1 0 x = x := by simp [affine_eq_mul_add]
  have h := affine_jumpRounds 64 ⟨1, 0, m, i, d⟩ x d.isLt
  rwa [hid] at h

/-! ## The period of an odd multiplier -/

/-- `n` transitions scale the distance of two states by `m^n`: the increment cancels. -/
theorem transitionPow_sub_transitionPow (m i : Word) (n : Nat) (x y : Word) :
    transitionPow m i n x - transitionPow m i n y = m ^ n * (x - y) := by
  induction n with
  | zero => simp [transitionPow_zero]
  | succ n ih =>
    have hsucc (z : Word) : transitionPow m i (n + 1) z = m * transitionPow m i n z + i := by
      rw [add_comm, transitionPow_add, transitionPow_one, transition_eq_mul_add]
    rw [hsucc, hsucc, add_sub_add_right_eq_sub, ← mul_sub, ih, ← mul_assoc, pow_succ']

/-- A word whose value is odd is odd in the ring of words. -/
theorem odd_of_toNat_mod_two {m : Word} (h : m.toNat % 2 = 1) : Odd m := by
  simpa using (Nat.odd_iff.mpr h).natCast (R := Word)

/-- `2^k` transitions of an odd multiplier move no state by anything but a multiple of `2^k`: doubling the exponent
multiplies the displacement by the even number `m^(2^k) + 1`. -/
theorem two_pow_dvd_transitionPow_sub {m : Word} (hm : Odd m) (i : Word) (k : Nat) (x : Word) :
    (2 : Word) ^ k ∣ transitionPow m i (2 ^ k) x - x := by
  induction k with
  | zero =>
    rw [pow_zero]
    exact one_dvd _
  | succ k ih =>
    have heven : (2 : Word) ∣ m ^ 2 ^ k + 1 := (hm.pow.add_odd odd_one).two_dvd
    have hdouble : transitionPow m i (2 ^ (k + 1)) x - x
        = (m ^ 2 ^ k + 1) * (transitionPow m i (2 ^ k) x - x) := by
      rw [pow_succ, mul_two, transitionPow_add, add_one_mul, ← transitionPow_sub_transitionPow m i, sub_add_sub_cancel]
    rw [hdouble, pow_succ']
    exact mul_dvd_mul heven ih

/-- With an odd multiplier `2^64` transitions lead back (R139). -/
theorem transitionPow_two_pow_64 {m : Word} (hm : Odd m) (i x : Word) : transitionPow m i (2 ^ 64) x = x := by
  have hzero : (2 : Word) ^ 64 = 0 := BitVec.eq_of_toNat_eq (by simp)
  have h := two_pow_dvd_transitionPow_sub hm i 64 x
  rwa [hzero, zero_dvd_iff, sub_eq_zero] at h

/-- With an odd multiplier only the exponent modulo `2^64` matters. -/
theorem transitionPow_mod {m : Word} (hm : Odd m) (i : Word) (n : Nat) (x : Word) :
    transitionPow m i (n % 2 ^ 64) x = transitionPow m i n x := by
  have hperiod : Function.IsPeriodicPt (transition m i) (2 ^ 64) x := transitionPow_two_pow_64 hm i x
  exact hperiod.iterate_mod_apply n

/-! ## The counter -/

theorem add64_toNat (a b : Word) : (add64 a b).toNat = (a.toNat + b.toNat) % 2 ^ 64 := BitVec.toNat_ofNat _ _

/-- Counters add as the transitions they count compose, where the sum does not wrap or the multiplier is odd (R138). -/
theorem transitionPow_add64 {m : Word} (i a d x : Word) (h : m.toNat % 2 = 1 ∨ a.toNat + d.toNat < 2 ^ 64) :
    transitionPow m i (add64 a d).toNat x = transitionPow m i d.toNat (transitionPow m i a.toNat x) := by
  rw [← transitionPow_add, add64_toNat, add_comm d.toNat]
  rcases h with hodd | hlt
  · exact transitionPow_mod (odd_of_toNat_mod_two hodd) i _ x
  · rw [Nat.mod_eq_of_lt hlt]

end Sys2Proof.Machine

/-! SUPPORT. What a command does to the registers, by the columns of the command table (R64): the registers its row does
not list, and the commands that advance the generator. -/

namespace Sys2Proof.Machine

/-! ## Frames -/

/-- A command whose row does not list SEED leaves it. -/
theorem command_seed_of_not_writesSeed (P : Params) {i : Instr} (r : Regs) (h : writesSeed i = false) :
    (command P i r).1.seed = r.seed := by
  cases i with
  | setseed | load => cases h
  | _ => rfl

/-- A command whose row does not list INC leaves it. -/
theorem command_inc_of_not_writesInc (P : Params) {i : Instr} (r : Regs) (h : writesInc i = false) :
    (command P i r).1.inc = r.inc := by
  cases i with
  | setinc | load => cases h
  | _ => rfl

/-- A command whose row does not list STATE and COUNT leaves both. -/
theorem command_state_count_of_not_writesStateCount (P : Params) {i : Instr} (r : Regs)
    (h : writesStateCount i = false) :
    (command P i r).1.state = r.state ∧ (command P i r).1.count = r.count := by
  cases i with
  | step | next | skip | nthnum | ffwd | setseed | setcount | load => cases h
  | _ => exact ⟨rfl, rfl⟩

/-! ## Advancing -/

/-- The registers `d` transitions on: STATE moves, COUNT adds the distance (R23). -/
def Regs.advance (P : Params) (d : Word) (r : Regs) : Regs :=
  { r with state := transitionPow P.mult r.inc d.toNat r.state, count := add64 r.count d }

/-- STEP, NEXT, SKIP and FFWD all advance the registers by their distance. -/
theorem command_of_advanceOf (P : Params) {i : Instr} {d : Word} (r : Regs) (h : advanceOf i = some d) :
    (command P i r).1 = r.advance P d := by
  cases i with
  | step | next => cases h; rfl
  | skip n | ffwd n =>
    obtain rfl : n = d := Option.some.inj h
    simp [command, skipCommand, ffwdCommand, Regs.advance, jumpFrom_eq_transitionPow]
  | _ => cases h

/-- The discarded transitions of NTHNUM are `P_NTHNUM_PRESTEP` transitions (R135). -/
theorem prestep_eq_transitionPow (p : Fin 2) (m i x : Word) : prestep p m i x = transitionPow m i p.val x := by
  fin_cases p <;> rfl

end Sys2Proof.Machine

/-! SUPPORT. Which commands make the register set consistent, and which keep it so (R27, R28). -/

namespace Sys2Proof.Machine

/-! ## Commands that make the register set consistent -/

theorem consistent_reset (P : Params) : Consistent P (Regs.reset P) := rfl

theorem consistent_setseed (P : Params) (r : Regs) (v : Word) : Consistent P (command P (.setseed v) r).1 := rfl

theorem consistent_setcount (P : Params) (r : Regs) (k : Word) : Consistent P (command P (.setcount k) r).1 :=
  jumpFrom_eq_transitionPow k P.mult r.inc r.seed

theorem consistent_load (P : Params) (r : Regs) (a b c : Word) : Consistent P (command P (.load a b c) r).1 :=
  jumpFrom_eq_transitionPow b P.mult c a

theorem consistent_nthnum (P : Params) (r : Regs) (n : Word) (h : P.mult.toNat % 2 = 1 ∨ n.toNat + 1 < 2 ^ 64) :
    Consistent P (command P (.nthnum n) r).1 := by
  have hp : (BitVec.ofNat 64 P.nthnumPrestep.val).toNat = P.nthnumPrestep.val := by
    rw [BitVec.toNat_ofNat, Nat.mod_eq_of_lt (by omega)]
  have hwrap : P.mult.toNat % 2 = 1 ∨ (BitVec.ofNat 64 P.nthnumPrestep.val).toNat + n.toNat < 2 ^ 64 := by omega
  have hpow := transitionPow_add64 r.inc _ n r.seed hwrap
  rw [hp, ← prestep_eq_transitionPow] at hpow
  exact (jumpFrom_eq_transitionPow ..).trans hpow.symm

/-! ## Commands that keep it -/

/-- Advancing keeps consistency, where COUNT does not wrap or the multiplier is odd. -/
theorem consistent_advance {P : Params} {r : Regs} (d : Word) (hr : Consistent P r)
    (h : P.mult.toNat % 2 = 1 ∨ r.count.toNat + d.toNat < 2 ^ 64) : Consistent P (r.advance P d) := by
  have hpow := transitionPow_add64 r.inc r.count d r.seed h
  rw [← hr] at hpow
  exact hpow.symm

/-- With an odd multiplier every command keeps consistency, but for a SETINC of a new value (R28). -/
theorem command_keeps_consistent {P : Params} {r : Regs} (i : Instr) (hm : P.mult.toNat % 2 = 1)
    (hr : Consistent P r) (hinc : ∀ v, i = .setinc v → v = r.inc) : Consistent P (command P i r).1 := by
  cases i with
  | mul | add | muladd | peek | jcalc | getseed | getinc | getcount | save => exact hr
  | step | next | skip | ffwd =>
    rw [command_of_advanceOf P r rfl]
    exact consistent_advance _ hr (.inl hm)
  | nthnum n => exact consistent_nthnum P r n (.inl hm)
  | setseed v => exact consistent_setseed P r v
  | setcount k => exact consistent_setcount P r k
  | load a b c => exact consistent_load P r a b c
  | setinc v =>
    obtain rfl : v = r.inc := hinc v rfl
    exact hr

/-- With an odd multiplier every transaction keeps consistency, but for a SETINC of a new value. -/
theorem transact_keeps_consistent {P : Params} {r : Regs} (req : Request) (hm : P.mult.toNat % 2 = 1)
    (hr : Consistent P r) (hinc : ∀ v, decode req = .ok (.setinc v) → v = r.inc) :
    Consistent P (transact P req r).1 := by
  cases hd : decode req with
  | error e => rwa [transact_of_reject P r hd]
  | ok i =>
    rw [transact_of_decode P r hd]
    exact command_keeps_consistent i hm hr fun v hv => hinc v (by rw [hd, hv])

/-- The default MULT is odd (R7), so this hardware is among the builds above. -/
theorem params_mult_odd : Config.params.mult.toNat % 2 = 1 := rfl

end Sys2Proof.Machine

/-! PROOFS. The obligations about the register set (spec 10_state.md). -/

namespace Sys2Proof.Machine

/-- Settles O53, by the kinds of commands: those that read, advance, restart from SEED, or replace INC. -/
theorem oddMultiplierKeepsConsistency : Obligations.OddMultiplierKeepsConsistency := by
  intro P r i hm hr hinc
  exact command_keeps_consistent i hm hr hinc

/-- Settles O54, by what a step can do: only reset and the command in flight write registers. -/
theorem everyStepKeepsConsistency : Obligations.EveryStepKeepsConsistency := by
  intro s t hs hstep hinc
  obtain ⟨e, rest, -, -, rfl⟩ | ⟨req, hp, -, rfl⟩ | ⟨e, rest, -, -, -, rfl⟩ | ⟨-, -, rfl⟩ := step_cases hstep
  · exact consistent_reset Config.params
  · exact transact_keeps_consistent req params_mult_odd hs fun v hd => hinc req v hp hd
  · rwa [transfer_regs, State.withInput_regs]
  · exact hs

/-- Settles O12, by what a step can do: a transfer and an idle step write no register. -/
theorem registersChangeOnlyWithResponse : Obligations.RegistersChangeOnlyWithResponse := by
  intro s t hstep hne
  obtain ⟨e, rest, hi, he, -⟩ | ⟨req, hp, -, rfl⟩ | ⟨e, rest, -, -, -, rfl⟩ | ⟨-, -, rfl⟩ := step_cases hstep
  · exact .inl ⟨e, rest, hi, he⟩
  · exact .inr ⟨req, _, hp, State.commit_phase ..⟩
  · exact absurd (by rw [transfer_regs, State.withInput_regs]) hne
  · exact absurd rfl hne

/-- Settles O17: a command on the port commits its transaction, which has the frame of its row. -/
theorem commandsWriteOnlyTheirRegisters : Obligations.CommandsWriteOnlyTheirRegisters := by
  intro i s
  exact ⟨_, exec_eq_next i s,
    command_seed_of_not_writesSeed Config.params s.regs,
    command_inc_of_not_writesInc Config.params s.regs,
    command_state_count_of_not_writesStateCount Config.params s.regs, rfl, rfl⟩

/-- Settles O18, from what an advancing command does and the frame of COUNT; the other clauses are the commands' own
assignments. -/
theorem countAdvancesByDistance : Obligations.CountAdvancesByDistance := by
  intro P r
  refine ⟨fun i d h => ?_, fun _ => rfl, fun _ => rfl, fun _ _ _ => rfl, fun n => ?_, fun i h => ?_⟩
  · rw [command_of_advanceOf P r h]
    exact add64_toNat r.count d
  · have hadd := add64_toNat (BitVec.ofNat 64 P.nthnumPrestep.val) n
    rw [BitVec.toNat_ofNat, Nat.mod_add_mod] at hadd
    exact hadd
  · exact (command_state_count_of_not_writesStateCount P r h).2

/-- Settles O52; the consistent set STATE = SEED = INC = 0 at COUNT 1 is broken by SETINC 1, which asks for STATE 1. -/
theorem commandsThatMakeConsistent : Obligations.CommandsThatMakeConsistent := by
  refine ⟨fun P r => ⟨consistent_reset P, consistent_setseed P r, consistent_setcount P r, consistent_load P r,
    consistent_nthnum P r⟩, ⟨0, 0, 1, 0⟩, 1, ?_, ?_⟩
  · unfold Consistent
    decide
  · unfold Consistent
    decide

/-- The default seed is a successor below `2^64`, so it is not 0 (R7). -/
theorem defaultSeed_ne_zero : Config.defaultSeed ≠ 0 := by
  intro h
  have hlt := Config.defaultSeedIndex.isLt
  have hnat := congrArg BitVec.toNat h
  rw [Config.defaultSeed, BitVec.toNat_ofNat, Nat.mod_eq_of_lt (by omega)] at hnat
  exact Nat.succ_ne_zero _ hnat

/-- Settles O15. -/
theorem registersAfterReset : Obligations.RegistersAfterReset :=
  ⟨rfl, rfl, defaultSeed_ne_zero, rfl, rfl, rfl, consistent_reset Config.params, rfl⟩

/-- Settles O57: after reset no response is held and none is delivered. -/
theorem invariantsHoldAtReset : Obligations.InvariantsHoldAtReset := by
  refine ⟨consistent_reset Config.params, ⟨?_, ?_⟩, ⟨?_, ?_⟩⟩ <;> simp

end Sys2Proof.Machine

/-! SUPPORT. What a repeated command does: nothing more, or one more advance (R47). -/

namespace Sys2Proof.Machine

/-! ## Repeating without effect -/

/-- A command whose row lists no register leaves the whole register set. -/
theorem command_regs_of_writes_none (P : Params) {i : Instr} (r : Regs) (hseed : writesSeed i = false)
    (hinc : writesInc i = false) (hstateCount : writesStateCount i = false) : (command P i r).1 = r := by
  obtain ⟨hstate, hcount⟩ := command_state_count_of_not_writesStateCount P r hstateCount
  calc (command P i r).1
      = ⟨(command P i r).1.state, (command P i r).1.seed, (command P i r).1.count, (command P i r).1.inc⟩ := rfl
    _ = r := by
      rw [hstate, hcount, command_seed_of_not_writesSeed P r hseed, command_inc_of_not_writesInc P r hinc]

/-- A command that does not advance reads no register it has itself changed: it writes nothing, or its writes come from
its operands and from registers it leaves. -/
theorem command_idempotent_of_advanceOf_none (P : Params) {i : Instr} (r : Regs) (h : advanceOf i = none) :
    (command P i (command P i r).1).1 = (command P i r).1 := by
  cases i with
  | step | next | skip | ffwd => cases h
  | mul | add | muladd | peek | jcalc | getseed | getinc | getcount | save =>
    exact command_regs_of_writes_none P _ rfl rfl rfl
  | setseed | setinc | setcount | load | nthnum => rfl

/-! ## Advancing again -/

theorem Regs.advance_count_toNat (P : Params) (d : Word) (r : Regs) :
    (r.advance P d).count.toNat = (r.count.toNat + d.toNat) % 2 ^ 64 :=
  add64_toNat r.count d

/-- Two advances add the distance twice. -/
theorem Regs.advance_advance_count_toNat (P : Params) (d : Word) (r : Regs) :
    ((r.advance P d).advance P d).count.toNat = (r.count.toNat + 2 * d.toNat) % 2 ^ 64 := by
  rw [Regs.advance_count_toNat, Regs.advance_count_toNat, Nat.mod_add_mod, Nat.add_assoc, ← Nat.two_mul]

/-- A distance between 0 and `2^64` is no multiple of `2^64`, so COUNT does not come back. -/
theorem Regs.advance_count_ne (P : Params) {d : Word} (r : Regs) (hd : d ≠ 0) : (r.advance P d).count ≠ r.count := by
  intro h
  have hnat := r.advance_count_toNat P d
  rw [h] at hnat
  have hzero : d.toNat = 0 := by omega
  exact hd (BitVec.eq_of_toNat_eq hzero)

end Sys2Proof.Machine

/-! PROOFS. The obligation about repeated commands (spec 20_memory.md). -/

namespace Sys2Proof.Machine

/-- Settles O19, by the kinds of commands: those that write nothing, those that do not advance, and those that do. -/
theorem repeatedCommands : Obligations.RepeatedCommands := by
  intro P r
  refine ⟨fun i hseed hinc hstateCount => ?_, fun i h => command_idempotent_of_advanceOf_none P r h, fun i d h hd => ?_⟩
  · have hregs := command_regs_of_writes_none P r hseed hinc hstateCount
    exact ⟨hregs, by rw [hregs]⟩
  · simp only [command_of_advanceOf P _ h]
    exact ⟨r.advance_advance_count_toNat P d, r.advance_count_ne P hd, (r.advance P d).advance_count_ne P hd⟩

end Sys2Proof.Machine

/-! SUPPORT. The packed word and the decoder (spec 30_encoding.md R60, R64 to R69): where the fields of a packed word
stand, and which command a request selects. -/

namespace Sys2Proof

/-! ## The packed word -/

/-- Bit `k` of a packed word is a bit of the field whose range of R60 holds `k`. -/
theorem Request.getLsbD_pack (r : Request) (k : Nat) :
    r.pack.getLsbD k = if k < 8 then r.op.getLsbD k else if k < 72 then r.a.getLsbD (k - 8)
      else if k < 136 then r.b.getLsbD (k - 72) else r.c.getLsbD (k - 136) := by
  have hop : 8 ≤ k → r.op.getLsbD k = false := BitVec.getLsbD_of_ge r.op k
  have ha : 64 ≤ k - 8 → r.a.getLsbD (k - 8) = false := BitVec.getLsbD_of_ge r.a (k - 8)
  have hb : 64 ≤ k - 72 → r.b.getLsbD (k - 72) = false := BitVec.getLsbD_of_ge r.b (k - 72)
  have hc : 64 ≤ k - 136 → r.c.getLsbD (k - 136) = false := BitVec.getLsbD_of_ge r.c (k - 136)
  simp only [Request.pack, BitVec.getLsbD_or, BitVec.getLsbD_shiftLeft, BitVec.getLsbD_setWidth]
  grind

/-- The fields of a packed word are the fields it was packed from. -/
@[simp] theorem Request.unpack_pack (r : Request) : Request.unpack r.pack = r := by
  obtain ⟨op, a, b, c⟩ := r
  rw [Request.unpack, Request.mk.injEq]
  refine ⟨?_, ?_, ?_, ?_⟩
  all_goals
    refine BitVec.eq_of_getLsbD_eq fun k hk => ?_
    rw [BitVec.getLsbD_extractLsb', Request.getLsbD_pack]
    grind

/-! ## The decoder -/

/-- A command's request decodes to the command, whatever its operands are. -/
theorem decode_encode (i : Instr) : decode (encode i) = .ok i := by
  cases i <;> rfl

/-- The request with the fields the row of `i` does not list set to 0. -/
def Request.listed (i : Instr) (r : Request) : Request where
  op := r.op
  a := if Machine.listsA i then r.a else 0
  b := if Machine.listsB i then r.b else 0
  c := if Machine.listsC i then r.c else 0

/-- What the decoder can answer: for an assigned opcode the command whose own request is the given one with its unlisted
fields at 0, and for any other a rejection that names the opcode (R65, R66). -/
theorem decode_cases (r : Request) :
    (r.wellFormed = true ∧ ∃ i, decode r = .ok i ∧ encode i = r.listed i) ∨
    (r.wellFormed = false ∧ decode r = .error (.unassignedOpcode r.op)) := by
  have hop : r.op = BitVec.ofNat 8 r.op.toNat := by simp
  unfold decode
  split
  case h_19 =>
    have hrange : ¬ (0x01 ≤ r.op.toNat ∧ r.op.toNat ≤ 0x12) := by grind
    exact .inr ⟨decide_eq_false hrange, rfl⟩
  all_goals
    next hrow =>
      rw [hrow] at hop
      have hrange : 0x01 ≤ r.op.toNat ∧ r.op.toNat ≤ 0x12 := by omega
      exact .inl ⟨decide_eq_true hrange, _, rfl, by rw [Request.listed, hop]; rfl⟩

/-- A request with an assigned opcode selects a command, which carries its listed fields. -/
theorem exists_decode_of_wellFormed {r : Request} (h : r.wellFormed = true) :
    ∃ i, decode r = .ok i ∧ encode i = r.listed i := by
  obtain ⟨-, hsel⟩ | ⟨hbad, -⟩ := decode_cases r
  · exact hsel
  · rw [hbad] at h
    cases h

/-- A request with an unassigned opcode is rejected by name. -/
theorem decode_of_not_wellFormed {r : Request} (h : r.wellFormed = false) :
    decode r = .error (.unassignedOpcode r.op) := by
  obtain ⟨hgood, -⟩ | ⟨-, hrej⟩ := decode_cases r
  · rw [hgood] at h
    cases h
  · exact hrej

/-- Of a request with a command's opcode the decoder reads only the fields the command's row lists. -/
theorem decode_listed {i : Instr} {r : Request} (h : r.op = i.opcode) : decode (r.listed i) = decode r := by
  obtain ⟨op, a, b, c⟩ := r
  obtain rfl : op = i.opcode := h
  cases i <;> rfl

/-- A command selected by a request has the request's opcode and carries its listed fields. -/
theorem encode_of_decode {r : Request} {i : Instr} (h : decode r = .ok i) : encode i = r.listed i := by
  obtain ⟨-, j, hj, henc⟩ | ⟨-, hrej⟩ := decode_cases r
  · rw [hj] at h
    cases h
    exact henc
  · rw [hrej] at h
    cases h

theorem encode_op (i : Instr) : (encode i).op = i.opcode := by
  cases i <;> rfl

/-- A request selects exactly the command whose own request has its opcode and its listed fields (R65, R69). -/
theorem decode_eq_ok_iff (r : Request) (i : Instr) : decode r = .ok i ↔ r.listed i = encode i := by
  refine ⟨fun h => (encode_of_decode h).symm, fun h => ?_⟩
  have hop : r.op = i.opcode := (congrArg Request.op h).trans (encode_op i)
  rw [← decode_listed hop, h, decode_encode]

theorem decode_toOption_eq_none_iff (r : Request) : (decode r).toOption = none ↔ r.wellFormed = false := by
  obtain ⟨hw, i, hi, -⟩ | ⟨hw, hrej⟩ := decode_cases r
  · simp [hw, hi, Except.toOption]
  · simp [hw, hrej, Except.toOption]

/-- The opcodes not assigned, `0x00` and `0x13` to `0xFF`, are 238 (R66). -/
theorem length_unassigned_opcodes :
    ((List.range 256).filter fun op => (decode ⟨BitVec.ofNat 8 op, 0, 0, 0⟩).toOption = none).length = 238 := by
  have hp : ∀ op ∈ List.range 256, decide ((decode ⟨BitVec.ofNat 8 op, 0, 0, 0⟩).toOption = none)
      = decide (op = 0 ∨ 19 ≤ op) := by
    intro op hop
    have hlt : op % 2 ^ 8 = op := Nat.mod_eq_of_lt (List.mem_range.mp hop)
    simp only [decode_toOption_eq_none_iff, Request.wellFormed, BitVec.toNat_ofNat, hlt, decide_eq_false_iff_not,
      decide_eq_decide]
    omega
  rw [List.filter_congr hp]
  rfl

/-- The opcodes R66 names are unassigned. -/
theorem Request.not_wellFormed_of_unassigned {r : Request} (h : r.op = 0x00 ∨ 0x13 ≤ r.op.toNat) :
    r.wellFormed = false := by
  refine decide_eq_false ?_
  obtain h | h := h
  · rw [h]
    decide
  · omega

/-- Requests with one opcode that agree on the listed fields have the same listed fields. -/
theorem Request.listed_congr {r r' : Request} {i : Instr} (hop : r'.op = r.op)
    (ha : Machine.listsA i = true → r'.a = r.a) (hb : Machine.listsB i = true → r'.b = r.b)
    (hc : Machine.listsC i = true → r'.c = r.c) : r'.listed i = r.listed i := by
  simp only [Request.listed, hop]
  congr 1
  · exact if_ctx_congr Iff.rfl ha fun _ => rfl
  · exact if_ctx_congr Iff.rfl hb fun _ => rfl
  · exact if_ctx_congr Iff.rfl hc fun _ => rfl

end Sys2Proof

/-! SUPPORT. The port (spec 30_encoding.md R75 to R77): what one edge does in each phase, and that the edges of a served
request are one transaction. -/

namespace Sys2Proof.Machine

theorem noResetNext_of_cons {s : State} {e : Edge} {rest : List Edge} (hi : s.input = e :: rest) (he : e.rst = false) :
    NoResetNext s :=
  s.rstNext_eq_false_iff.mp ((State.rstNext_cons hi).trans he)

theorem runCommand_of_decode {req : Request} {i : Instr} (s : State) (h : decode req = .ok i) :
    runCommand req s = exec i s := by
  rw [runCommand, h]

/-! ## Transfers at an edge with `rst` 0 -/

section Edge

variable {s : State} {e : Edge} {rest : List Edge}

/-- A ready block accepts a valid request. -/
theorem step_accepts (hi : s.input = e :: rest) (he : e.rst = false) (hp : s.phase = .ready)
    (hv : e.reqValid = true) : step s = .next ((s.withInput rest).accept e.req) := by
  rw [step_of_transfer hi he (by simp [hp])]
  simp [transfer, hp, hv]

/-- A ready block lets an edge without a valid request pass. -/
theorem step_waits (hi : s.input = e :: rest) (he : e.rst = false) (hp : s.phase = .ready)
    (hv : e.reqValid = false) : step s = .next (s.withInput rest) := by
  rw [step_of_transfer hi he (by simp [hp])]
  simp [transfer, hp, hv]

/-- A response outstanding is delivered to a host that is ready. -/
theorem step_delivers {rsp : Response} (hi : s.input = e :: rest) (he : e.rst = false) (hp : s.phase = .answering rsp)
    (hr : e.rspReady = true) : step s = .next ((s.withInput rest).deliver rsp) := by
  rw [step_of_transfer hi he (by simp [hp])]
  simp [transfer, hp, hr]

/-- A response outstanding is held, and no request accepted, where the host is not ready. -/
theorem step_holds {rsp : Response} (hi : s.input = e :: rest) (he : e.rst = false) (hp : s.phase = .answering rsp)
    (hr : e.rspReady = false) : step s = .next (s.withInput rest) := by
  rw [step_of_transfer hi he (by simp [hp])]
  simp [transfer, hp, hr]

/-- `req_ready` is 1 exactly where no command is in flight. -/
theorem reqReady_iff (hi : s.input = e :: rest) (he : e.rst = false) : s.reqReady = true ↔ s.phase = .ready := by
  cases hp : s.phase <;> simp [State.reqReady, hp, State.rstNext_cons hi, he]

end Edge

/-- A command in flight is answered by its transaction. -/
theorem step_answers {s : State} {req : Request} (hp : s.phase = .computing req) (hr : NoResetNext s) :
    step s = .next (s.commit (transact Config.params req s.regs).1 (transact Config.params req s.regs).2) :=
  (step_of_computing hp hr).trans (runCommand_eq_next req s)

/-! ## Runs -/

/-- A step that goes on is the first of a run. -/
theorem run_succ_of_step {s t : State} (n : Nat) (h : step s = .next t) : core.run (n + 1) s = core.run n t := by
  have h' : core.step s = .next t := h
  simp only [Host.Core.run, h']

/-- The edges of one request, from a ready block, are its transaction: three steps later the block is ready again,
with the registers the transaction leaves and its response delivered. -/
theorem run_serveEdges (n : Nat) {s : State} {req : Request} {rest : List Edge} (hp : s.phase = .ready)
    (hi : s.input = serveEdges req ++ rest) :
    core.run (n + 3) s = core.run n {
      regs := (transact Config.params req s.regs).1, phase := .ready, input := rest,
      delivered := s.delivered ++ [(transact Config.params req s.regs).2] } := by
  rw [run_succ_of_step _ (step_accepts hi rfl hp rfl),
    run_succ_of_step _ (step_answers rfl (noResetNext_of_cons rfl rfl)),
    run_succ_of_step _ (step_delivers rfl rfl rfl rfl)]
  rfl

theorem length_transactAll (P : Params) (reqs : List Request) (r : Regs) :
    (transactAll P reqs r).2.length = reqs.length := by
  induction reqs generalizing r with
  | nil => rfl
  | cons req reqs ih => rw [transactAll, List.length_cons, ih, List.length_cons]

/-- The edges of a list of requests, from a ready block, are the fold of their transactions. -/
theorem run_flatMap_serveEdges (reqs : List Request) {s : State} {rest : List Edge} (hp : s.phase = .ready)
    (hi : s.input = reqs.flatMap serveEdges ++ rest) :
    core.run (3 * reqs.length) s = .next {
      regs := (transactAll Config.params reqs s.regs).1, phase := .ready, input := rest,
      delivered := s.delivered ++ (transactAll Config.params reqs s.regs).2 } := by
  induction reqs generalizing s with
  | nil =>
    obtain ⟨regs, phase, input, delivered⟩ := s
    obtain rfl : phase = .ready := hp
    obtain rfl : input = rest := hi
    simp [transactAll, Host.Core.run]
  | cons req reqs ih =>
    rw [List.flatMap_cons, List.append_assoc] at hi
    rw [List.length_cons, Nat.mul_succ, run_serveEdges _ hp hi, ih rfl rfl]
    simp [transactAll]

end Sys2Proof.Machine

/-! SUPPORT. The responses a block can give (spec 30_encoding.md R63, R70; 60_exceptions.md R191), and that a step brings
no other response than that of the command in flight. -/

namespace Sys2Proof.Machine

/-! ## Responses held and delivered -/

/-- Every response the block holds or has delivered has the property `p`. -/
def EveryResponse (p : Response → Prop) (s : State) : Prop :=
  (∀ rsp, s.held = some rsp → p rsp) ∧ ∀ rsp ∈ s.delivered, p rsp

/-- A transfer makes no response: it delivers the one held, or none. -/
theorem transfer_keeps_everyResponse {p : Response → Prop} {s : State} (e : Edge) (h : EveryResponse p s) :
    EveryResponse p (transfer e s) := by
  obtain ⟨hheld, hdel⟩ := h
  unfold transfer
  split
  · split
    · exact ⟨by simp, hdel⟩
    · exact ⟨hheld, hdel⟩
  · exact ⟨hheld, hdel⟩
  · next rsp hp =>
    split
    · refine ⟨by simp, fun q hq => ?_⟩
      rw [State.deliver_delivered, List.mem_append, List.mem_singleton] at hq
      obtain hq | rfl := hq
      · exact hdel q hq
      · exact hheld q ((s.held_eq_some_iff q).mpr hp)
    · exact ⟨hheld, hdel⟩

/-- The only new response a step can bring is that of the command in flight. -/
theorem step_keeps_everyResponse {p : Response → Prop} {s t : State} (h : EveryResponse p s)
    (hstep : step s = .next t) (hnew : ∀ req, s.phase = .computing req → p (transact Config.params req s.regs).2) :
    EveryResponse p t := by
  obtain ⟨e, rest, -, -, rfl⟩ | ⟨req, hp, -, rfl⟩ | ⟨e, rest, -, -, -, rfl⟩ | ⟨-, -, rfl⟩ := step_cases hstep
  · exact ⟨by simp, h.2⟩
  · refine ⟨fun rsp hrsp => ?_, h.2⟩
    rw [State.held_eq_some_iff, State.commit_phase] at hrsp
    injection hrsp with hrsp
    exact hrsp ▸ hnew req hp
  · exact transfer_keeps_everyResponse e h
  · exact h

/-! ## Responses of commands -/

/-- A command is answered `ST_OK` (R63). -/
theorem command_st (P : Params) (i : Instr) (r : Regs) : (command P i r).2.st = .ok := by
  cases i <;> rfl

/-- A command whose row does not list Q0 answers 0 there (R70). -/
theorem command_q0_of_not_listsQ0 (P : Params) {i : Instr} (r : Regs) (h : listsQ0 i = false) :
    (command P i r).2.q0 = 0 := by
  cases i with
  | step | ffwd | setseed | setinc | setcount | load => rfl
  | _ => cases h

/-- A command whose row does not list Q1 answers 0 there (R70). -/
theorem command_q1_of_not_listsQ1 (P : Params) {i : Instr} (r : Regs) (h : listsQ1 i = false) :
    (command P i r).2.q1 = 0 := by
  cases i with
  | peek | next | skip | nthnum | jcalc | save => cases h
  | _ => rfl

/-- A command whose row does not list Q2 answers 0 there (R70). -/
theorem command_q2_of_not_listsQ2 (P : Params) {i : Instr} (r : Regs) (h : listsQ2 i = false) :
    (command P i r).2.q2 = 0 := by
  cases i with
  | save => cases h
  | _ => rfl

/-- A request with an assigned opcode is answered `ST_OK`. -/
theorem transact_st_of_wellFormed (P : Params) {req : Request} (r : Regs) (h : req.wellFormed = true) :
    (transact P req r).2.st = .ok := by
  obtain ⟨i, hi, -⟩ := exists_decode_of_wellFormed h
  rw [transact_of_decode P r hi, command_st]

/-- The response of every transaction is well-formed: an illegal request has no result, and every other is `ST_OK`. -/
theorem transact_wellFormedResponse (P : Params) (req : Request) (r : Regs) :
    wellFormedResponse (transact P req r).2 := by
  intro hst
  cases hw : req.wellFormed with
  | true =>
    rw [transact_st_of_wellFormed P r hw] at hst
    cases hst
  | false =>
    rw [transact_of_reject P r (decode_of_not_wellFormed hw)]
    exact ⟨rfl, rfl, rfl⟩

end Sys2Proof.Machine

/-! SUPPORT. Values as a host carries them: 32-bit halves, bytes, the persisted image (spec 20_memory.md R43, R44;
30_encoding.md R71), what the pseudo-commands come to (R74), and which operand lists the assembler takes (R73). -/

namespace Sys2Proof.Machine

/-! ## Halves and bytes -/

/-- A pair of halves is the two side by side, the high one first. -/
theorem ofHalves_eq_append (lo hi : Half) : ofHalves lo hi = hi ++ lo := by
  apply BitVec.eq_of_toNat_eq
  rw [ofHalves, BitVec.toNat_ofNat, BitVec.toNat_append, ← Nat.shiftLeft_add_eq_or_of_lt lo.isLt, Nat.shiftLeft_eq]
  omega

theorem ofHalves_lowHalf_highHalf (v : Word) : ofHalves (lowHalf v) (highHalf v) = v := by
  apply BitVec.eq_of_toNat_eq
  simp only [ofHalves, lowHalf, highHalf, BitVec.toNat_ofNat, BitVec.extractLsb'_toNat, Nat.shiftRight_eq_div_pow]
  omega

/-- Masking the high half and adding a low one replaces the low half. -/
theorem and_or_setWidth_eq_ofHalves (v : Word) (lo : Half) :
    (v &&& 0xffffffff00000000) ||| lo.setWidth 64 = ofHalves lo (highHalf v) := by
  have hmask : ∀ k < 64, (0xffffffff00000000 : Word).getLsbD k = decide (32 ≤ k) := by decide
  rw [ofHalves_eq_append]
  refine BitVec.eq_of_getLsbD_eq fun k hk => ?_
  rw [BitVec.getLsbD_or, BitVec.getLsbD_and, hmask k hk, BitVec.getLsbD_append, highHalf, BitVec.getLsbD_extractLsb',
    BitVec.getLsbD_setWidth]
  have hlo : 32 ≤ k → lo.getLsbD k = false := BitVec.getLsbD_of_ge lo k
  grind

/-- Masking the low half and adding a high one replaces the high half. -/
theorem shiftLeft_or_and_eq_ofHalves (v : Word) (hi : Half) :
    (hi.setWidth 64 <<< 32) ||| (v &&& 0x00000000ffffffff) = ofHalves (lowHalf v) hi := by
  have hmask : ∀ k < 64, (0x00000000ffffffff : Word).getLsbD k = decide (k < 32) := by decide
  rw [ofHalves_eq_append]
  refine BitVec.eq_of_getLsbD_eq fun k hk => ?_
  rw [BitVec.getLsbD_or, BitVec.getLsbD_and, hmask k hk, BitVec.getLsbD_append, lowHalf, BitVec.getLsbD_extractLsb',
    BitVec.getLsbD_shiftLeft, BitVec.getLsbD_setWidth]
  grind

theorem halfOfBytes_bytesOfHalf (w : Half) :
    halfOfBytes (w.extractLsb' 0 8) (w.extractLsb' 8 8) (w.extractLsb' 16 8) (w.extractLsb' 24 8) = w := by
  apply BitVec.eq_of_toNat_eq
  simp only [halfOfBytes, BitVec.toNat_ofNat, BitVec.extractLsb'_toNat, Nat.shiftRight_eq_div_pow]
  omega

/-! ## The persisted image -/

theorem loadOfImage_imageOfSave (rsp : Response) :
    loadOfImage (imageOfSave rsp) = some (.load rsp.q0 rsp.q1 rsp.q2) := by
  simp only [imageOfSave, imageWords, loadOfImage, ofHalves_lowHalf_highHalf]

/-- An image has six words (U8). -/
theorem loadOfImage_of_length_ne {ws : List Half} (h : ws.length ≠ 6) : loadOfImage ws = none := by
  unfold loadOfImage
  split
  · exact absurd rfl h
  · rfl

theorem wordsOfBytes_imageBytes (ws : List Half) : wordsOfBytes (imageBytes ws) = some ws := by
  induction ws with
  | nil => rfl
  | cons w ws ih =>
    simp only [imageBytes, bytesOfHalf, List.cons_append, List.nil_append, wordsOfBytes, ih, Option.map_some,
      halfOfBytes_bytesOfHalf]

theorem length_imageBytes (ws : List Half) : (imageBytes ws).length = 4 * ws.length := by
  induction ws with
  | nil => rfl
  | cons w ws ih =>
    rw [imageBytes, List.length_append, ih, List.length_cons, Nat.mul_succ, Nat.add_comm]
    rfl

/-! ## Pseudo-commands -/

/-- A jump of distance 0 stays. -/
theorem jumpFrom_zero (m i x : Word) : jumpFrom 0 m i x = x :=
  jumpFrom_eq_transitionPow 0 m i x

/-- A program of one command leaves the registers its transaction leaves. -/
theorem runHost_plain (P : Params) (i : Instr) (q0 : Word) (r : Regs) :
    (runHost P [plain i] q0 r).1 = (command P i r).1 := rfl

/-- The program of a GETSEED and a SETSEED made from its answer reseeds with the value made from SEED. -/
theorem runHost_getseed_setseed (P : Params) (f : Word → Word) (q0 : Word) (r : Regs) :
    (runHost P [plain .getseed, fun q => .setseed (f q)] q0 r).1
      = { r with seed := f r.seed, state := f r.seed, count := 0 } := rfl

/-! ## Operand lists -/

section OperandLists

variable {ops : List Int}

theorem assembleCommand_zero_of_length_ne (p : List HostStep) (h : ops.length ≠ 0) :
    assembleCommand.zero ops p = .error .wrongOperandCount := by
  unfold assembleCommand.zero
  split
  · exact absurd rfl h
  · rfl

theorem assembleCommand_one_of_length_ne (f : Int → List HostStep) (h : ops.length ≠ 1) :
    assembleCommand.one ops f = .error .wrongOperandCount := by
  unfold assembleCommand.one
  split
  · exact absurd rfl h
  · rfl

theorem assembleCommand_two_of_length_ne (f : Word → Word → List HostStep) (h : ops.length ≠ 2) :
    assembleCommand.two ops f = .error .wrongOperandCount := by
  unfold assembleCommand.two
  split
  · exact absurd rfl h
  · rfl

theorem assembleCommand_three_of_length_ne (f : Word → Word → Word → List HostStep) (h : ops.length ≠ 3) :
    assembleCommand.three ops f = .error .wrongOperandCount := by
  unfold assembleCommand.three
  split
  · exact absurd rfl h
  · rfl

/-- As many operands as a command's row lists are assembled to the command with A, B, C the reduced operands in order
(R73). -/
theorem assembleCommand_of_length_eq {i : Instr} (h : ops.length = operandCount i) :
    ∃ j, assembleCommand i.mnemonic ops = .ok [plain j] ∧
      encode j = ⟨i.opcode, reduce64 (ops.getD 0 0), reduce64 (ops.getD 1 0), reduce64 (ops.getD 2 0)⟩ := by
  cases i with
  | step | peek | next | getseed | getinc | getcount | save =>
    obtain rfl := List.length_eq_zero_iff.mp h
    exact ⟨_, rfl, rfl⟩
  | skip | nthnum | ffwd | jcalc | setseed | setinc | setcount =>
    obtain ⟨x, rfl⟩ := List.length_eq_one_iff.mp h
    exact ⟨_, rfl, rfl⟩
  | mul | add =>
    obtain ⟨x, y, rfl⟩ := List.length_eq_two.mp h
    exact ⟨_, rfl, rfl⟩
  | muladd | load =>
    obtain ⟨x, y, z, rfl⟩ := List.length_eq_three.mp h
    exact ⟨_, rfl, rfl⟩

/-- Any other operand count is refused, but for SETINC without its operand (R73, R74). -/
theorem assembleCommand_of_length_ne {i : Instr} (h : ops.length ≠ operandCount i)
    (hsetinc : i.mnemonic = "SETINC" → ops ≠ []) : assembleCommand i.mnemonic ops = .error .wrongOperandCount := by
  cases i with
  | step | peek | next | getseed | getinc | getcount | save => exact assembleCommand_zero_of_length_ne _ h
  | skip | nthnum | ffwd | jcalc | setseed | setcount => exact assembleCommand_one_of_length_ne _ h
  | setinc => exact (if_neg (hsetinc rfl)).trans (assembleCommand_one_of_length_ne _ h)
  | mul => exact assembleCommand_two_of_length_ne (fun a b => [plain (.mul a b)]) h
  | add => exact assembleCommand_two_of_length_ne (fun a b => [plain (.add a b)]) h
  | muladd => exact assembleCommand_three_of_length_ne (fun a b c => [plain (.muladd a b c)]) h
  | load => exact assembleCommand_three_of_length_ne (fun a b c => [plain (.load a b c)]) h

end OperandLists

end Sys2Proof.Machine

/-! PROOFS. The obligations about encoding, the port and the host's tooling (spec 30_encoding.md). -/

namespace Sys2Proof.Machine

/-- Settles O2: packing and unpacking are inverse, and so are a command's request and the decoder. -/
theorem decodeOfEncodeWord : Obligations.DecodeOfEncodeWord := by
  intro i
  rw [decodeWord, encodeWord, Request.unpack_pack, decode_encode]

/-- Settles O14, by induction on the requests: each one's two edges are its transaction. -/
theorem portRefinesTransactions : Obligations.PortRefinesTransactions := by
  intro s reqs rest hp hi
  exact ⟨run_flatMap_serveEdges reqs hp hi, length_transactAll Config.params reqs s.regs⟩

/-- Settles O3, from what the decoder can answer. -/
theorem opcodeAloneSelectsCommand : Obligations.OpcodeAloneSelectsCommand := by
  intro r
  exact ⟨exists_decode_of_wellFormed, decode_of_not_wellFormed⟩

/-- Settles O4: the two requests have the same opcode and listed fields, which alone select the command. -/
theorem unlistedFieldsAreIgnored : Obligations.UnlistedFieldsAreIgnored := by
  intro r r' i hdec hop ha hb hc
  have hdec' : decode r' = .ok i := by
    rw [decode_eq_ok_iff] at hdec ⊢
    rw [← hdec, Request.listed_congr hop ha hb hc]
  exact ⟨hdec', fun s => by rw [runCommand_of_decode s hdec', runCommand_of_decode s hdec]⟩

/-- Settles O5: the opcode is rejected, and a rejected request is the ILLEGAL transaction. -/
theorem unassignedOpcodeIsAnsweredIllegal : Obligations.UnassignedOpcodeIsAnsweredIllegal := by
  refine ⟨length_unassigned_opcodes, fun s req hp hr hop => ?_⟩
  have hbad := decode_of_not_wellFormed (Request.not_wellFormed_of_unassigned hop)
  rw [step_answers hp hr, transact_of_reject Config.params s.regs hbad]
  rfl

/-- Settles O7, by the columns of results of the command table. -/
theorem unlistedResultsAreZero : Obligations.UnlistedResultsAreZero := by
  intro P i r
  exact ⟨command_st P i r, command_q0_of_not_listsQ0 P r, command_q1_of_not_listsQ1 P r,
    command_q2_of_not_listsQ2 P r⟩

/-- Settles O8: a response is packed as a request with its status code for OP and its results for A, B, C. -/
theorem packedResponseFields : Obligations.PackedResponseFields := by
  refine ⟨rfl, rfl, fun rsp => ?_⟩
  have hpack : packResponse rsp = Request.pack ⟨statusCode rsp.st, rsp.q0, rsp.q1, rsp.q2⟩ := rfl
  have hfields := Request.unpack_pack ⟨statusCode rsp.st, rsp.q0, rsp.q1, rsp.q2⟩
  rw [← hpack] at hfields
  injection hfields with hst hq0 hq1 hq2
  exact ⟨hst, hq0, hq1, hq2⟩

/-- Settles O55: the only new response of a step is that of a transaction, which is well-formed. -/
theorem everyStepKeepsResponsesWellFormed : Obligations.EveryStepKeepsResponsesWellFormed := by
  intro s t hs hstep
  exact step_keeps_everyResponse hs hstep fun req _ => transact_wellFormedResponse Config.params req s.regs

/-- Settles O56: the only new response of a step is that of a transaction, `ST_OK` where the opcode is assigned. -/
theorem assignedOpcodesKeepResponsesOk : Obligations.AssignedOpcodesKeepResponsesOk := by
  intro s t hs hstep hreq
  exact step_keeps_everyResponse hs hstep fun req hp => transact_st_of_wellFormed Config.params s.regs (hreq req hp)

/-- Settles O58: two halves give a value back, and four bytes a word. -/
theorem persistedImageRoundTrip : Obligations.PersistedImageRoundTrip :=
  ⟨fun rsp => ⟨loadOfImage_imageOfSave rsp, rfl⟩, fun ws => ⟨wordsOfBytes_imageBytes ws, length_imageBytes ws⟩,
    fun _ => loadOfImage_of_length_ne⟩

/-- Settles O59: the masks of SETSEEDLO and SETSEEDHI replace one half, and a jump of distance 0 stays. -/
theorem pseudoCommandEffects : Obligations.PseudoCommandEffects := by
  intro P r q0
  refine ⟨fun n => ?_, ?_, fun s i => ?_, fun lo => ?_, fun hi => ?_, ?_⟩
  · have hreduce : BitVec.ofNat 64 (2 ^ 64 - n.toNat) = BitVec.ofNat 64 ((2 ^ 64 - n.toNat) % 2 ^ 64) :=
      BitVec.eq_of_toNat_eq (by simp)
    rw [rewind, runHost_plain, hreduce]
  · rw [restart, runHost_plain, command, setcountCommand, jumpFrom_zero]
  · rw [construct, runHost_plain, command, loadCommand, jumpFrom_zero]
  · rw [setseedlo, runHost_getseed_setseed, and_or_setWidth_eq_ofHalves]
  · rw [setseedhi, runHost_getseed_setseed, shiftLeft_or_and_eq_ofHalves]
  · rfl

/-- Settles O1, by running the decoder on the six words. -/
theorem writtenWordsDecode : Obligations.WrittenWordsDecode := by
  unfold Obligations.WrittenWordsDecode
  decide

/-- Settles O9: a step with a command in flight runs the request, which decodes to the command. -/
theorem stepRunsDecodedCommand : Obligations.StepRunsDecodedCommand := by
  intro s req i hp hr hdec
  rw [step_of_computing hp hr, runCommand_of_decode s hdec]

/-- Settles O13, one lemma for each phase and handshake bit. -/
theorem portTransfersAndIdling : Obligations.PortTransfersAndIdling := by
  refine ⟨fun s e rest hi he => ⟨reqReady_iff hi he, fun rsp => ?_, step_accepts hi he, step_waits hi he,
    fun _ => step_delivers hi he, fun _ => step_holds hi he⟩, fun s hi hp => step_of_idle hi (by simp [hp])⟩
  rw [State.offered_eq_some_iff, and_iff_right (noResetNext_of_cons hi he)]

/-- Settles O60, from the operand lists the assembler takes and refuses; the two whole lines are run. -/
theorem assemblerReducesOperands : Obligations.AssemblerReducesOperands := by
  refine ⟨fun n => ⟨BitVec.toNat_ofInt n, BitVec.toNat_ofInt n⟩, fun _ _ => assembleCommand_of_length_eq,
    fun _ _ => assembleCommand_of_length_ne, fun x y => ⟨rfl, rfl, rfl, rfl, rfl⟩, ?_, ?_⟩
  · decide
  · decide

end Sys2Proof.Machine

/-! SUPPORT. The arithmetic from 32-bit halves (spec 40_arith.md R93, R94) is the native arithmetic: the halves of a
value are its remainder and quotient by `2^32`. -/

namespace Sys2Proof.Machine

/-! ## Values modulo `2^64` -/

theorem mul64_eq_ofNat_mod (a b : Word) : mul64 a b = BitVec.ofNat 64 ((a.toNat * b.toNat) % 2 ^ 64) :=
  BitVec.eq_of_toNat_eq (by simp [mul64])

theorem add64_eq_ofNat_mod (a b : Word) : add64 a b = BitVec.ofNat 64 ((a.toNat + b.toNat) % 2 ^ 64) :=
  BitVec.eq_of_toNat_eq (by simp [add64_toNat])

/-- The product may wrap before the addend is added (R98). -/
theorem affine_eq_ofNat_mod (g c x : Word) :
    affine g c x = BitVec.ofNat 64 ((g.toNat * x.toNat + c.toNat) % 2 ^ 64) :=
  BitVec.eq_of_toNat_eq (by simp [affine, mul64, add64])

/-! ## Halves -/

theorem lowHalf_toNat (v : Word) : (lowHalf v).toNat = v.toNat % 2 ^ 32 := by
  rw [lowHalf, BitVec.extractLsb'_toNat, Nat.shiftRight_zero]

theorem highHalf_toNat (v : Word) : (highHalf v).toNat = v.toNat / 2 ^ 32 := by
  rw [highHalf, BitVec.extractLsb'_toNat, Nat.shiftRight_eq_div_pow]
  omega

theorem toNat_eq_halves (v : Word) : v.toNat = (highHalf v).toNat * 2 ^ 32 + (lowHalf v).toNat := by
  rw [lowHalf_toNat, highHalf_toNat, Nat.div_add_mod']

/-- Of the cross terms only the low 32 bits count modulo `2^64`, and the product of the high halves not at all (R93). -/
theorem mul_mod_of_halves (aL aH bL bH : Nat) :
    (aL * bL + (aH * bL + aL * bH) % 2 ^ 32 * 2 ^ 32) % 2 ^ 64
      = ((aH * 2 ^ 32 + aL) * (bH * 2 ^ 32 + bL)) % 2 ^ 64 := by
  have hcross : (aH * bL + aL * bH) % 2 ^ 32 * 2 ^ 32 = (aH * bL + aL * bH) * 2 ^ 32 % 2 ^ 64 :=
    (Nat.mul_mod_mul_right ..).symm
  have hproduct : (aH * 2 ^ 32 + aL) * (bH * 2 ^ 32 + bL)
      = aL * bL + (aH * bL + aL * bH) * 2 ^ 32 + 2 ^ 64 * (aH * bH) := by ring
  rw [hcross, Nat.add_mod_mod, hproduct, Nat.add_mul_mod_self_left]

/-- A 32-bit sum has become smaller than an addend exactly where it carried (R94). -/
theorem carry_eq_div {aL bL : Nat} (ha : aL < 2 ^ 32) (hb : bL < 2 ^ 32) :
    (if (aL + bL) % 2 ^ 32 < aL then 1 else 0) = (aL + bL) / 2 ^ 32 := by
  split <;> omega

theorem mulHalves_eq_mul64 (a b : Word) : mulHalves a b = mul64 a b := by
  rw [mul64_eq_ofNat_mod, toNat_eq_halves a, toNat_eq_halves b, ← mul_mod_of_halves, mulHalves]

theorem addHalves_eq_add64 (a b : Word) : addHalves a b = add64 a b := by
  rw [add64_eq_ofNat_mod, toNat_eq_halves a, toNat_eq_halves b, addHalves,
    carry_eq_div (lowHalf a).isLt (lowHalf b).isLt]
  congr 1
  omega

end Sys2Proof.Machine

/-! PROOFS. The obligations about the arithmetic commands (spec 40_arith.md). -/

namespace Sys2Proof.Machine

/-- Settles O23: each form built from halves is its native operation. -/
theorem halfFormsAgreeWithNative : Obligations.HalfFormsAgreeWithNative := by
  intro a b
  rw [mulHalves_eq_mul64, addHalves_eq_add64]
  exact ⟨mul64_eq_ofNat_mod a b, add64_eq_ofNat_mod a b⟩

/-- Settles O24: reducing an integer modulo `2^64` is a ring map, and brings a value read as signed back. -/
theorem signednessDoesNotMatter : Obligations.SignednessDoesNotMatter := by
  intro a b
  rw [mul64_eq_mul, add64_eq_add, reduce64, reduce64, BitVec.ofInt_mul, BitVec.ofInt_add, BitVec.ofInt_toInt,
    BitVec.ofInt_toInt]
  exact ⟨rfl, rfl⟩

/-- Settles O20: MUL commits the product and the registers it found. -/
theorem mulAnswersProduct : Obligations.MulAnswersProduct := by
  intro s a b
  rw [exec_eq_next, command, mulCommand, mul64_eq_ofNat_mod]
  rfl

/-- Settles O21: ADD commits the sum and the registers it found. -/
theorem addAnswersSum : Obligations.AddAnswersSum := by
  intro s a b
  rw [exec_eq_next, command, addCommand, add64_eq_ofNat_mod]
  rfl

/-- Settles O22: MULADD commits the affine map's value and the registers it found. -/
theorem muladdAnswersProductPlusAddend : Obligations.MuladdAnswersProductPlusAddend := by
  intro s a b c
  rw [exec_eq_next, command, muladdCommand, affine_eq_ofNat_mod]
  rfl

end Sys2Proof.Machine

/-! SUPPORT. The bits of the output (spec 41_transition_output.md R112, R113), the response that carries it (R62), and
what the transition does to the state 0 (R117) and to parity (R118). -/

namespace Sys2Proof.Machine

/-! ## The output transform -/

theorem shifted_toNat (s : Word) :
    (shifted s).toNat = ((s.toNat ^^^ (s.toNat / 2 ^ 18)) / 2 ^ 27) % 2 ^ 32 := by
  rw [shifted, BitVec.toNat_setWidth, BitVec.toNat_ushiftRight, BitVec.toNat_xor, BitVec.toNat_ushiftRight,
    Nat.shiftRight_eq_div_pow, Nat.shiftRight_eq_div_pow]

theorem rotAmount_eq_div (s : Word) : rotAmount s = s.toNat / 2 ^ 59 := by
  rw [rotAmount, BitVec.toNat_ushiftRight, Nat.shiftRight_eq_div_pow]

theorem rotAmount_le (s : Word) : rotAmount s ≤ 31 := by
  rw [rotAmount_eq_div]
  omega

/-- Of the two shifts a rotation is made of, the right one supplies the bits that do not wrap and the left one those
that do (R10). -/
theorem getLsbD_rotr32 (x : Half) {r k : Nat} (hr : r ≤ 31) (hk : k < 32) :
    (rotr32 x r).getLsbD k = x.getLsbD ((k + r) % 32) := by
  rw [rotr32, BitVec.getLsbD_or, BitVec.getLsbD_ushiftRight, BitVec.getLsbD_shiftLeft]
  rcases Nat.lt_or_ge (k + r) 32 with hlt | hge
  · rcases Nat.eq_zero_or_pos r with rfl | hpos
    · simp [hk, Nat.mod_eq_of_lt hk]
    · have hleft : k < (32 - r) % 32 := by omega
      simp [hleft, Nat.mod_eq_of_lt hlt, Nat.add_comm r]
  · have hleft : ¬ k < (32 - r) % 32 := by omega
    have hindex : k - (32 - r) % 32 = (k + r) % 32 := by omega
    have hright : x.getLsbD (r + k) = false := BitVec.getLsbD_of_ge x (r + k) (by omega)
    simp [hk, hleft, hindex, hright]

theorem getLsbD_shifted (s : Word) {k : Nat} (hk : k < 32) :
    (shifted s).getLsbD k = (s.getLsbD (27 + k) ^^ s.getLsbD (45 + k)) := by
  rw [shifted, BitVec.getLsbD_setWidth, BitVec.getLsbD_ushiftRight, BitVec.getLsbD_xor, BitVec.getLsbD_ushiftRight,
    ← Nat.add_assoc]
  simp [hk]

/-- The bits above the low 27 are those of the quotient by `2^27`. -/
theorem getLsbD_add_27 (s : Word) (k : Nat) : s.getLsbD (27 + k) = (s.toNat / 2 ^ 27).testBit k := by
  rw [Nat.testBit_div_two_pow, Nat.add_comm]
  rfl

/-- The value and the amount of the rotation are both made of the bits above the low 27 (R113). -/
theorem xshrr_congr {s t : Word} (h : s.toNat / 2 ^ 27 = t.toNat / 2 ^ 27) : xshrr s = xshrr t := by
  have hrot : rotAmount s = rotAmount t := by
    rw [rotAmount_eq_div, rotAmount_eq_div]
    omega
  have hshifted : shifted s = shifted t := by
    refine BitVec.eq_of_getLsbD_eq fun k hk => ?_
    rw [getLsbD_shifted s hk, getLsbD_shifted t hk, show 45 + k = 27 + (18 + k) by omega]
    simp only [getLsbD_add_27, h]
  rw [xshrr, xshrr, hrot, hshifted]

/-! ## The output response -/

theorem outputResponse_eq (s : Word) :
    outputResponse s = ⟨.ok, BitVec.ofNat 64 (xshrr s).toNat, normBits (xshrr s), 0⟩ := by
  rw [BitVec.ofNat_toNat]
  rfl

theorem outputResponse_zero : outputResponse 0 = ⟨.ok, 0, 0, 0⟩ := by decide

/-! ## The transition -/

theorem transition_zero (m : Word) : transition m 0 0 = 0 := by
  rw [transition_eq_mul_add, mul_zero, add_zero]

theorem transition_toNat_mod_two (m i s : Word) :
    (transition m i s).toNat % 2 = (m.toNat * s.toNat + i.toNat) % 2 := by
  rw [transition, affine_eq_ofNat_mod, BitVec.toNat_ofNat]
  omega

/-- With an odd multiplier and an odd increment the transition changes the parity of the state. -/
theorem transition_toNat_mod_two_of_odd {m i : Word} (hm : m.toNat % 2 = 1) (hi : i.toNat % 2 = 1) (s : Word) :
    (transition m i s).toNat % 2 = (s.toNat + 1) % 2 := by
  rw [transition_toNat_mod_two, Nat.add_mod, Nat.mul_mod, hm, hi, Nat.one_mul, Nat.mod_mod, Nat.mod_add_mod]

end Sys2Proof.Machine

/-! SUPPORT. The values of binary64 patterns (spec 30_encoding.md R62): each is a whole number of least subnormals, and
at the scale of a binade it is an integer or lies below the binade. -/

namespace Sys2Proof.Machine

/-! ## Values in units of the least subnormal -/

/-- The least positive binary64 value. It has a name of its own so that no tactic evaluates the power. -/
def leastSubnormal : ℚ := 2 ^ (-1074 : ℤ)

theorem leastSubnormal_pos : 0 < leastSubnormal := zpow_pos two_pos _

/-- At the scale of the binade that begins at `2^-k`, the unit of that binade is 1. -/
theorem two_pow_mul_leastSubnormal {k : ℕ} (hk : k ≤ 1022) :
    (2 : ℚ) ^ (1022 - k) * leastSubnormal * 2 ^ (52 + k) = 1 := by
  rw [leastSubnormal, ← zpow_natCast, ← zpow_natCast, ← zpow_add₀ two_ne_zero, ← zpow_add₀ two_ne_zero,
    show ((1022 - k : ℕ) : ℤ) + -1074 + ((52 + k : ℕ) : ℤ) = 0 by omega, zpow_zero]

/-- The magnitude of a finite pattern, in units of `leastSubnormal`. -/
def f64Units (b : Word) : ℕ :=
  if f64Exponent b = 0 then f64Fraction b else (2 ^ 52 + f64Fraction b) * 2 ^ (f64Exponent b - 1)

theorem f64Value_eq_units (b : Word) :
    f64Value b = (if b.getLsbD 63 then -1 else 1) * ((f64Units b : ℚ) * leastSubnormal) := by
  by_cases h : f64Exponent b = 0
  · rw [f64Value, f64Units, if_pos h, if_pos h, leastSubnormal]
  · have hscale : (2 : ℚ) ^ ((f64Exponent b : ℤ) - 1075) = 2 ^ (f64Exponent b - 1) * leastSubnormal := by
      rw [leastSubnormal, ← zpow_natCast, ← zpow_add₀ two_ne_zero]
      congr 1
      omega
    rw [f64Value, f64Units, if_neg h, if_neg h, hscale, Nat.cast_mul, Nat.cast_pow, Nat.cast_ofNat, mul_assoc]

theorem abs_f64Value (b : Word) : |f64Value b| = f64Units b * leastSubnormal := by
  rw [f64Value_eq_units, abs_mul, abs_of_nonneg (mul_nonneg (f64Units b).cast_nonneg leastSubnormal_pos.le)]
  split <;> simp

/-! ## The units of a binade -/

theorem f64Fraction_lt (b : Word) : f64Fraction b < 2 ^ 52 := (b.extractLsb' 0 52).isLt

theorem f64Units_lt (b : Word) : f64Units b < 2 ^ 52 * 2 ^ f64Exponent b := by
  have hfrac := f64Fraction_lt b
  rw [f64Units]
  split
  case isTrue h => simpa [h] using hfrac
  case isFalse h =>
    calc (2 ^ 52 + f64Fraction b) * 2 ^ (f64Exponent b - 1)
        < 2 ^ 53 * 2 ^ (f64Exponent b - 1) := by gcongr; omega
      _ = 2 ^ 52 * 2 ^ f64Exponent b := by rw [← pow_add, ← pow_add]; congr 1; omega

theorem le_f64Units {b : Word} (h : f64Exponent b ≠ 0) : 2 ^ 52 * 2 ^ (f64Exponent b - 1) ≤ f64Units b := by
  rw [f64Units, if_neg h]
  gcongr
  omega

theorem two_pow_dvd_f64Units {b : Word} {j : ℕ} (h : j < f64Exponent b) : 2 ^ j ∣ f64Units b := by
  rw [f64Units, if_neg (by omega)]
  exact (pow_dvd_pow 2 (by omega)).mul_left _

/-- Scaled so that the values of one normal binade are the integers from `2^52` to `2^53`, every value from there up is
an integer, and every other is below `2^52`. -/
theorem f64Value_scaled (b : Word) {k : ℕ} (hk : k ≤ 1022) :
    (∃ z : ℤ, f64Value b * 2 ^ (52 + k) = z) ∨ |f64Value b * 2 ^ (52 + k)| < 2 ^ 52 := by
  have hunit := two_pow_mul_leastSubnormal hk
  rcases Nat.lt_or_ge (1022 - k) (f64Exponent b) with hexp | hexp
  · left
    obtain ⟨c, hc⟩ := two_pow_dvd_f64Units hexp
    refine ⟨(if b.getLsbD 63 then -1 else 1) * c, ?_⟩
    rw [f64Value_eq_units, hc]
    push_cast
    linear_combination (if b.getLsbD 63 then -1 else 1) * (c : ℚ) * hunit
  · right
    have hleast := leastSubnormal_pos
    have hunits : f64Units b < 2 ^ 52 * 2 ^ (1022 - k) := (f64Units_lt b).trans_le (by gcongr; omega)
    rw [abs_mul, abs_f64Value, abs_of_pos (pow_pos two_pos (52 + k))]
    calc (f64Units b : ℚ) * leastSubnormal * 2 ^ (52 + k)
        < (2 ^ 52 * 2 ^ (1022 - k) : ℕ) * leastSubnormal * 2 ^ (52 + k) := by gcongr
      _ = 2 ^ 52 := by push_cast; linear_combination 2 ^ 52 * hunit

/-! ## Patterns with sign bit 0 -/

section SignBitZero

variable {b c : Word}

theorem f64Value_of_toNat_lt (hb : b.toNat < 2 ^ 63) : f64Value b = f64Units b * leastSubnormal := by
  have hsign : b.getLsbD 63 = false := Nat.testBit_lt_two_pow hb
  rw [f64Value_eq_units, hsign, if_neg Bool.false_ne_true, one_mul]

theorem f64Exponent_of_toNat_lt (hb : b.toNat < 2 ^ 63) : f64Exponent b = b.toNat / 2 ^ 52 := by
  rw [f64Exponent, BitVec.extractLsb'_toNat, Nat.shiftRight_eq_div_pow]
  omega

theorem f64Fraction_eq_mod (b : Word) : f64Fraction b = b.toNat % 2 ^ 52 := by
  rw [f64Fraction, BitVec.extractLsb'_toNat, Nat.shiftRight_zero]

/-- Patterns with sign bit 0 are in the order of their magnitudes. -/
theorem f64Units_mono (hb : b.toNat ≤ c.toNat) (hc : c.toNat < 2 ^ 63) : f64Units b ≤ f64Units c := by
  have hbexp := f64Exponent_of_toNat_lt (hb.trans_lt hc)
  have hcexp := f64Exponent_of_toNat_lt hc
  rcases Nat.lt_or_ge (f64Exponent b) (f64Exponent c) with hlt | hge
  · calc f64Units b ≤ 2 ^ 52 * 2 ^ f64Exponent b := (f64Units_lt b).le
      _ ≤ 2 ^ 52 * 2 ^ (f64Exponent c - 1) := by gcongr <;> omega
      _ ≤ f64Units c := le_f64Units (by omega)
  · have hexp : f64Exponent b = f64Exponent c := by omega
    have hfrac : f64Fraction b ≤ f64Fraction c := by
      rw [f64Fraction_eq_mod, f64Fraction_eq_mod]
      omega
    rw [f64Units, f64Units, hexp]
    split
    · exact hfrac
    · gcongr

theorem f64Value_mono (hb : b.toNat ≤ c.toNat) (hc : c.toNat < 2 ^ 63) : f64Value b ≤ f64Value c := by
  rw [f64Value_of_toNat_lt (hb.trans_lt hc), f64Value_of_toNat_lt hc]
  exact mul_le_mul_of_nonneg_right (Nat.cast_le.mpr (f64Units_mono hb hc)) leastSubnormal_pos.le

end SignBitZero

theorem f64Value_zero : f64Value 0 = 0 := by
  have hunits : f64Units 0 = 0 := by decide
  rw [f64Value_of_toNat_lt (by decide), hunits, Nat.cast_zero, zero_mul]

theorem f64Value_one : f64Value 0x3ff0000000000000 = 1 := by
  have hexp : f64Exponent 0x3ff0000000000000 = 1023 := by decide
  have hfrac : f64Fraction 0x3ff0000000000000 = 0 := by decide
  have hsign : (0x3ff0000000000000 : Word).getLsbD 63 = false := by decide
  rw [f64Value, hexp, hfrac, hsign]
  norm_num

end Sys2Proof.Machine

/-! SUPPORT. NORM is the correctly rounded quotient (spec 41_transition_output.md R114). At the scale of the quotient's
binade the candidates are the integers and the values below the binade, and the significand of NORM is the nearest
integer. -/

namespace Sys2Proof.Machine

/-! ## Rounding to the nearest integer -/

/-- An odd divisor leaves no quotient half-way between two naturals, so the rounding is off by less than a half. -/
theorem abs_divRoundEven_sub_lt (n : ℕ) {d : ℕ} (hd : d % 2 = 1) : |(divRoundEven n d : ℚ) - n / d| < 1 / 2 := by
  obtain ⟨hlow, hhigh⟩ := divRoundEven_bounds n d (by omega)
  have hlow' : (2 * n : ℚ) < 2 * (divRoundEven n d * d) + d := by
    exact_mod_cast (show 2 * n < 2 * (divRoundEven n d * d) + d by omega)
  have hhigh' : (2 * (divRoundEven n d * d) : ℚ) < 2 * n + d := by
    exact_mod_cast (show 2 * (divRoundEven n d * d) < 2 * n + d by omega)
  have hpos : (0 : ℚ) < d := by exact_mod_cast (show 0 < d by omega)
  have hquot : (divRoundEven n d : ℚ) - n / d = (divRoundEven n d * d - n) / d := by field_simp
  rw [hquot, abs_div, abs_of_pos hpos, div_lt_iff₀ hpos, abs_lt]
  constructor <;> linarith

section Nearest

variable {m : ℤ} {x : ℚ} (hm : |m - x| < 1 / 2)
include hm

/-- An integer less than a half away is nearer than every other integer. -/
theorem abs_sub_lt_of_ne {z : ℤ} (hz : z ≠ m) : |m - x| < |z - x| := by
  have hgap : (1 : ℚ) ≤ |(z : ℚ) - m| := by exact_mod_cast Int.one_le_abs (sub_ne_zero.mpr hz)
  have htriangle : |(z : ℚ) - m| ≤ |z - x| + |m - x| := by
    rw [abs_sub_comm (m : ℚ) x]
    exact abs_sub_le (z : ℚ) x m
  linarith

/-- It is nearer, too, than everything below the binade, since the start of the binade is an integer. -/
theorem eq_or_abs_sub_lt {w : ℚ} (hx : 2 ^ 52 ≤ x) (hw : (∃ z : ℤ, w = z) ∨ |w| < 2 ^ 52) :
    w = m ∨ |m - x| < |w - x| := by
  rcases hw with ⟨z, rfl⟩ | hsmall
  · rcases eq_or_ne z m with rfl | hne
    · exact .inl rfl
    · exact .inr (abs_sub_lt_of_ne hm hne)
  · have hstart : |(m : ℚ) - x| ≤ |2 ^ 52 - x| := by
      rcases eq_or_ne (2 ^ 52) m with rfl | hne
      · exact_mod_cast le_rfl
      · exact_mod_cast (abs_sub_lt_of_ne hm hne).le
    right
    calc |(m : ℚ) - x| ≤ |2 ^ 52 - x| := hstart
      _ = x - 2 ^ 52 := by rw [abs_sub_comm, abs_of_nonneg (sub_nonneg.mpr hx)]
      _ < x - w := by linarith [(abs_lt.mp hsmall).2]
      _ ≤ |w - x| := by rw [abs_sub_comm]; exact le_abs_self _

end Nearest

/-- A comparison of distances at one scale holds at the other. -/
theorem abs_sub_lt_of_mul {a b c u : ℚ} (hu : 0 < u) (h : |a * u - c * u| < |b * u - c * u|) : |a - c| < |b - c| := by
  rw [← sub_mul, ← sub_mul, abs_mul, abs_mul, abs_of_pos hu] at h
  exact lt_of_mul_lt_mul_right h hu.le

/-! ## The exponent and the significand of NORM -/

/-- The `k` with the quotient in `[2^-k, 2^(1-k))`, for an output other than 0. -/
def normScale (o : Half) : ℕ := scaleFrom o.toNat normDivisor 32 0

/-- The quotient at the scale of its binade, rounded. -/
def normSignificand (o : Half) : ℕ := divRoundEven (o.toNat * 2 ^ (52 + normScale o)) normDivisor

theorem normScale_le (o : Half) : normScale o ≤ 32 :=
  (scaleFrom_le o.toNat normDivisor 32 0).trans (by decide)

theorem le_mul_two_pow_normScale {o : Half} (h : o ≠ 0) : normDivisor ≤ o.toNat * 2 ^ normScale o := by
  have hpos : o.toNat ≠ 0 := BitVec.toNat_ne.mp h
  refine le_mul_pow_scaleFrom o.toNat normDivisor 32 0 ?_
  rw [normDivisor]
  omega

theorem mul_two_pow_normScale_lt (o : Half) : o.toNat * 2 ^ normScale o < 2 * normDivisor := by
  cases hk : normScale o with
  | zero =>
    rw [normDivisor]
    omega
  | succ j =>
    have hless := mul_pow_lt_of_lt_scaleFrom o.toNat normDivisor 32 0 j j.zero_le (by rw [← normScale, hk]; omega)
    rw [pow_succ, ← mul_assoc]
    omega

/-- The significand is that of a normal value, or the carry into the next binade. -/
theorem normSignificand_bounds {o : Half} (h : o ≠ 0) : 2 ^ 52 ≤ normSignificand o ∧ normSignificand o ≤ 2 ^ 53 := by
  have hlow := le_mul_two_pow_normScale h
  have hhigh := mul_two_pow_normScale_lt o
  obtain ⟨hup, hdown⟩ := divRoundEven_bounds (o.toNat * 2 ^ (52 + normScale o)) normDivisor (by decide)
  have hscaled : o.toNat * 2 ^ (52 + normScale o) = 2 ^ 52 * (o.toNat * 2 ^ normScale o) := by ring
  rw [← normSignificand, hscaled] at hup hdown
  rw [normDivisor] at hlow hhigh hup hdown
  omega

/-! ## The bits of NORM -/

theorem normBits_zero : normBits 0 = 0 := rfl

theorem normBits_toNat {o : Half} (h : o ≠ 0) :
    (normBits o).toNat = (1023 - normScale o) * 2 ^ 52 + (normSignificand o - 2 ^ 52) := by
  have hsig := (normSignificand_bounds h).2
  have hbits : normBits o = BitVec.ofNat 64 ((1023 - normScale o) * 2 ^ 52 + (normSignificand o - 2 ^ 52)) :=
    if_neg (BitVec.toNat_ne.mp h)
  rw [hbits, BitVec.toNat_ofNat]
  omega

theorem normBits_toNat_le (o : Half) : (normBits o).toNat ≤ 1024 * 2 ^ 52 := by
  rcases eq_or_ne o 0 with rfl | h
  · decide
  · have hsig := (normSignificand_bounds h).2
    rw [normBits_toNat h]
    omega

theorem normBits_toNat_lt (o : Half) : (normBits o).toNat < 2 ^ 63 :=
  (normBits_toNat_le o).trans_lt (by decide)

theorem normBits_sign (o : Half) : (normBits o).getLsbD 63 = false := Nat.testBit_lt_two_pow (normBits_toNat_lt o)

theorem normBits_finite (o : Half) : f64Finite (normBits o) := by
  have hle := normBits_toNat_le o
  rw [f64Finite, f64Exponent_of_toNat_lt (normBits_toNat_lt o)]
  omega

theorem f64Units_normBits {o : Half} (h : o ≠ 0) :
    f64Units (normBits o) = normSignificand o * 2 ^ (1022 - normScale o) := by
  obtain ⟨hlow, hhigh⟩ := normSignificand_bounds h
  have hscale := normScale_le o
  have hbits := normBits_toNat h
  have hexp := f64Exponent_of_toNat_lt (normBits_toNat_lt o)
  have hfrac := f64Fraction_eq_mod (normBits o)
  rw [f64Units, if_neg (by omega)]
  rcases Nat.lt_or_ge (normSignificand o) (2 ^ 53) with hlt | hcarry
  · have hexp' : f64Exponent (normBits o) - 1 = 1022 - normScale o := by omega
    have hfrac' : 2 ^ 52 + f64Fraction (normBits o) = normSignificand o := by omega
    rw [hexp', hfrac']
  · have hexp' : f64Exponent (normBits o) - 1 = 1022 - normScale o + 1 := by omega
    have hfrac' : f64Fraction (normBits o) = 0 := by omega
    have hsig : normSignificand o = 2 ^ 53 := by omega
    rw [hexp', hfrac', hsig]
    ring

/-- At the scale of the quotient's binade, NORM is its significand. -/
theorem f64Value_normBits_scaled {o : Half} (h : o ≠ 0) :
    f64Value (normBits o) * 2 ^ (52 + normScale o) = normSignificand o := by
  rw [f64Value_of_toNat_lt (normBits_toNat_lt o), f64Units_normBits h]
  push_cast
  linear_combination
    (normSignificand o : ℚ) * two_pow_mul_leastSubnormal ((normScale_le o).trans (show 32 ≤ 1022 by decide))

/-! ## The exact quotient -/

/-- The exact quotient NORM rounds (R114). -/
def normQuotient (o : Half) : ℚ := o.toNat / 4294967295

theorem normQuotient_zero : normQuotient 0 = 0 := by simp [normQuotient]

theorem normQuotient_le_one (o : Half) : normQuotient o ≤ 1 := by
  rw [normQuotient, div_le_one (by norm_num)]
  exact_mod_cast (show o.toNat ≤ 4294967295 by omega)

/-- Two outputs have quotients at least one part in the divisor apart. -/
theorem normQuotient_add_le {o p : Half} (h : o.toNat < p.toNat) :
    normQuotient o + 1 / 4294967295 ≤ normQuotient p := by
  have hnat : (o.toNat : ℚ) + 1 ≤ p.toNat := by exact_mod_cast h
  rw [normQuotient, normQuotient, ← add_div]
  gcongr

theorem le_normQuotient_scaled {o : Half} (h : o ≠ 0) : 2 ^ 52 ≤ normQuotient o * 2 ^ (52 + normScale o) := by
  have hlow : (4294967295 : ℚ) ≤ o.toNat * 2 ^ normScale o := by exact_mod_cast le_mul_two_pow_normScale h
  rw [normQuotient, pow_add]
  linarith

theorem abs_normSignificand_sub_lt (o : Half) :
    |(normSignificand o : ℚ) - normQuotient o * 2 ^ (52 + normScale o)| < 1 / 2 := by
  have hround := abs_divRoundEven_sub_lt (o.toNat * 2 ^ (52 + normScale o)) (d := normDivisor) (by decide)
  have hquot : ((o.toNat * 2 ^ (52 + normScale o) : ℕ) : ℚ) / normDivisor
      = normQuotient o * 2 ^ (52 + normScale o) := by
    rw [normQuotient, normDivisor]
    push_cast
    ring
  rwa [hquot, ← normSignificand] at hround

/-! ## NORM beside the other values -/

/-- NORM is nearer to the exact quotient than every other binary64 value: there are no ties. -/
theorem normBits_nearest (o : Half) (b : Word) :
    f64Value b = f64Value (normBits o) ∨
    |f64Value (normBits o) - normQuotient o| < |f64Value b - normQuotient o| := by
  rcases eq_or_ne o 0 with rfl | h
  · rw [normQuotient_zero, normBits_zero, f64Value_zero, sub_zero, sub_zero, abs_zero, abs_pos]
    exact em _
  · have hpos : (0 : ℚ) < 2 ^ (52 + normScale o) := pow_pos two_pos _
    have hscale : normScale o ≤ 1022 := (normScale_le o).trans (by decide)
    have hround : |((normSignificand o : ℤ) : ℚ) - normQuotient o * 2 ^ (52 + normScale o)| < 1 / 2 :=
      abs_normSignificand_sub_lt o
    obtain heq | hlt := eq_or_abs_sub_lt hround (le_normQuotient_scaled h) (f64Value_scaled b hscale)
    · rw [Int.cast_natCast, ← f64Value_normBits_scaled h] at heq
      exact .inl (mul_right_cancel₀ hpos.ne' heq)
    · rw [Int.cast_natCast, ← f64Value_normBits_scaled h] at hlt
      exact .inr (abs_sub_lt_of_mul hpos hlt)

/-- 1.0 is a binary64 value, so a quotient of at most 1 is not rounded past it. -/
theorem f64Value_normBits_le_one (o : Half) : f64Value (normBits o) ≤ 1 := by
  have hnear := normBits_nearest o 0x3ff0000000000000
  rw [f64Value_one, abs_of_nonneg (sub_nonneg.mpr (normQuotient_le_one o))] at hnear
  obtain heq | hlt := hnear
  · exact heq.ge
  · linarith [le_abs_self (f64Value (normBits o) - normQuotient o)]

/-- The rounding error is less than half a unit of the binade below 1. -/
theorem abs_f64Value_normBits_sub_lt (o : Half) : |f64Value (normBits o) - normQuotient o| < 1 / 2 ^ 53 := by
  rcases eq_or_ne o 0 with rfl | h
  · rw [normQuotient_zero, normBits_zero, f64Value_zero]
    norm_num
  · have hround := abs_normSignificand_sub_lt o
    have hpos : (0 : ℚ) < 2 ^ (52 + normScale o) := pow_pos two_pos _
    rw [← f64Value_normBits_scaled h, ← sub_mul, abs_mul, abs_of_pos hpos] at hround
    have hfactor : (2 : ℚ) ^ 52 ≤ 2 ^ (52 + normScale o) := pow_le_pow_right₀ one_le_two (Nat.le_add_right _ _)
    have hscaled := mul_le_mul_of_nonneg_left hfactor (abs_nonneg (f64Value (normBits o) - normQuotient o))
    linarith

/-- The quotients of two outputs are further apart than two rounding errors reach. -/
theorem f64Value_normBits_lt {o p : Half} (h : o.toNat < p.toNat) :
    f64Value (normBits o) < f64Value (normBits p) := by
  have hgap := normQuotient_add_le h
  have ho := (abs_lt.mp (abs_f64Value_normBits_sub_lt o)).2
  have hp := (abs_lt.mp (abs_f64Value_normBits_sub_lt p)).1
  linarith

end Sys2Proof.Machine

/-! PROOFS. The obligations about the transition and the output (spec 41_transition_output.md). -/

namespace Sys2Proof.Machine

/-- Settles O30: NORM is strictly the nearest value, so the tie the statement speaks of never arises. -/
theorem normIsNearestBinary64 : Obligations.NormIsNearestBinary64 := by
  refine ⟨fun o b _ => ?_, fun o => ⟨normBits_finite o, normBits_sign o, f64Value_normBits_le_one o⟩, normBits_zero,
    by decide⟩
  rw [← normQuotient]
  obtain heq | hlt := normBits_nearest o b
  · rw [heq]
    exact ⟨le_rfl, fun _ => .inl rfl⟩
  · exact ⟨hlt.le, fun htie => absurd htie hlt.ne⟩

/-- Settles O31: the values are ordered by their quotients, and the patterns, their sign bits 0, by their values. -/
theorem normIsStrictlyMonotone : Obligations.NormIsStrictlyMonotone := by
  intro o p h
  have hvalue := f64Value_normBits_lt h
  exact ⟨lt_of_not_ge fun hge => hvalue.not_ge (f64Value_mono hge (normBits_toNat_lt o)), hvalue⟩

/-- Settles O28: the model's shifts are quotients, and its rotation, by at most 31, is one of the bits. -/
theorem outputIsRotatedXorShift : Obligations.OutputIsRotatedXorShift := by
  intro s
  exact ⟨shifted_toNat s, rotAmount_eq_div s, rotAmount_le s,
    fun k hk => getLsbD_rotr32 (shifted s) (rotAmount_le s) hk⟩

/-- Settles O29: no bit of `shifted` and none of the rotation is taken from below bit 27. -/
theorem lowStateBitsNeverReachOutput : Obligations.LowStateBitsNeverReachOutput :=
  ⟨fun s _ hk => getLsbD_shifted s hk, fun _ _ h => xshrr_congr h⟩

/-- Settles O32: 0 is a fixed point of the transition with increment 0, and its output is 0. -/
theorem zeroStateAndIncrementAreFixed : Obligations.ZeroStateAndIncrementAreFixed := by
  intro P k count seed
  refine ⟨Function.iterate_fixed (transition_zero P.mult) k, ?_⟩
  rw [command, nextCommand, transition_zero, outputResponse_zero]
  rfl

/-- Settles O33: the transition changes the parity of the state. -/
theorem oddTransitionHasNoFixedPoint : Obligations.OddTransitionHasNoFixedPoint := by
  intro m i hm hi s hfix
  have hflip := transition_toNat_mod_two_of_odd hm hi s
  rw [hfix] at hflip
  omega

/-- Settles O25: STEP commits the affine map's value and the sum. -/
theorem stepTransitionsState : Obligations.StepTransitionsState := by
  intro s
  rw [exec_eq_next, command, stepCommand, transition, affine_eq_ofNat_mod, add64_eq_ofNat_mod]
  rfl

/-- Settles O26: PEEK commits the registers it found and the output response of STATE. -/
theorem peekAnswersOutput : Obligations.PeekAnswersOutput := by
  intro s
  rw [exec_eq_next, command, peekCommand, outputResponse_eq]
  rfl

/-- Settles O27: NEXT commits what STEP does and the output response of the new STATE. -/
theorem nextAnswersNewOutput : Obligations.NextAnswersNewOutput := by
  intro s s'
  rw [exec_eq_next, command, nextCommand, transition, affine_eq_ofNat_mod, add64_eq_ofNat_mod, outputResponse_eq]
  rfl

end Sys2Proof.Machine

/-! SUPPORT. The pair of the jump calculator in closed form (spec 42_jump.md R131), the loop beside 64 unconditional
rounds (R130, R141), and jumps as advances of the registers (R136 to R139). -/

namespace Sys2Proof.Machine

/-! ## The closed form of the calculator -/

theorem transitionPow_succ (m i : Word) (n : Nat) (x : Word) :
    transitionPow m i (n + 1) x = m * transitionPow m i n x + i := by
  rw [add_comm, transitionPow_add, transitionPow_one, transition_eq_mul_add]

/-- `n` transitions are one affine map: the power of the multiplier, and the increment times the geometric sum. -/
theorem transitionPow_eq_pow_mul_add (m i : Word) (n : Nat) (x : Word) :
    transitionPow m i n x = m ^ n * x + i * ∑ k ∈ Finset.range n, m ^ k := by
  induction n with
  | zero => simp [transitionPow_zero]
  | succ n ih =>
    rw [transitionPow_succ, ih, geom_sum_succ]
    ring

/-- The calculator's affine map is that of `d` transitions, so the two agree at 0, which gives `C`, and at 1, which then
gives `G` (R131). -/
theorem jump_eq_pow_geomSum (d m i : Word) :
    jump d m i = (m ^ d.toNat, i * ∑ k ∈ Finset.range d.toNat, m ^ k) := by
  have hmap (x : Word) : (jump d m i).1 * x + (jump d m i).2
      = m ^ d.toNat * x + i * ∑ k ∈ Finset.range d.toNat, m ^ k := by
    rw [← affine_eq_mul_add, ← transitionPow_eq_pow_mul_add]
    exact jumpFrom_eq_transitionPow d m i x
  have hc := hmap 0
  rw [mul_zero, mul_zero, zero_add, zero_add] at hc
  have hg := hmap 1
  rw [hc, mul_one, mul_one, add_left_inj] at hg
  exact Prod.ext hg hc

theorem natCast_toNat (x : Word) : ((x.toNat : ℕ) : Word) = x := by
  rw [BitVec.natCast_eq_ofNat, BitVec.ofNat_toNat, BitVec.setWidth_eq]

/-- Computing with words is computing with naturals and reducing once, at the end. -/
theorem toNat_eq_mod_of_eq_natCast {x : Word} {n : ℕ} (h : x = (n : Word)) : x.toNat = n % 2 ^ 64 := by
  rw [h, BitVec.natCast_eq_ofNat, BitVec.toNat_ofNat]

/-! ## The loop without its test -/

/-- With no distance left a round keeps the accumulated pair, and the distance stays 0 (R141). -/
theorem jumpRound_of_d_eq_zero {w : JumpRegs} (h : w.d = 0) :
    (jumpRound w).g = w.g ∧ (jumpRound w).c = w.c ∧ (jumpRound w).d = 0 := by
  simp [jumpRound, h]

theorem iterate_jumpRound_of_d_eq_zero (n : Nat) {w : JumpRegs} (h : w.d = 0) :
    (jumpRound^[n] w).g = w.g ∧ (jumpRound^[n] w).c = w.c := by
  induction n generalizing w with
  | zero => exact ⟨rfl, rfl⟩
  | succ n ih =>
    obtain ⟨hg, hc, hd⟩ := jumpRound_of_d_eq_zero h
    rw [Function.iterate_succ_apply, ← hg, ← hc]
    exact ih hd

/-- Rounds without the test accumulate the pair the loop does (R141). -/
theorem iterate_jumpRound_eq_jumpRounds (n : Nat) (w : JumpRegs) :
    (jumpRound^[n] w).g = (jumpRounds n w).g ∧ (jumpRound^[n] w).c = (jumpRounds n w).c := by
  induction n generalizing w with
  | zero => exact ⟨rfl, rfl⟩
  | succ n ih =>
    rw [jumpRounds]
    split
    · next h => exact iterate_jumpRound_of_d_eq_zero (n + 1) h
    · exact ih (jumpRound w)

/-- 64 halvings bring every distance to 0 (R130). -/
theorem jumpRounds_64_d (w : JumpRegs) : (jumpRounds 64 w).d = 0 := by
  apply BitVec.eq_of_toNat_eq
  rw [jumpRounds_d_toNat, Nat.div_eq_of_lt w.d.isLt]
  rfl

/-! ## Jumps as advances -/

theorem command_skip (P : Params) (n : Word) (r : Regs) :
    command P (.skip n) r = (r.advance P n, outputResponse (r.advance P n).state) := by
  rw [command, skipCommand, Regs.advance, jumpFrom_eq_transitionPow]

theorem command_ffwd (P : Params) (d : Word) (r : Regs) : command P (.ffwd d) r = (r.advance P d, respondNothing) := by
  rw [command, ffwdCommand, Regs.advance, jumpFrom_eq_transitionPow]

theorem Regs.advance_zero (P : Params) (r : Regs) : r.advance P 0 = r := by
  have hcount : add64 r.count 0 = r.count := by rw [add64_eq_add, add_zero]
  rw [Regs.advance, hcount]
  rfl

/-- Advances add their distances, where the sum does not wrap or the multiplier is odd (R138). -/
theorem Regs.advance_advance (P : Params) (r : Regs) {a b : Word}
    (h : P.mult.toNat % 2 = 1 ∨ a.toNat + b.toNat < 2 ^ 64) :
    (r.advance P a).advance P b = r.advance P (add64 a b) := by
  have hcount : add64 (add64 r.count a) b = add64 r.count (add64 a b) := by simp only [add64_eq_add, add_assoc]
  simp only [Regs.advance, transitionPow_add64 r.inc a b r.state h, hcount]

/-- A distance and its complement to `2^64` wrap to 0. -/
theorem add64_ofNat_two_pow_sub (k : Word) : add64 k (BitVec.ofNat 64 (2 ^ 64 - k.toNat)) = 0 := by
  apply BitVec.eq_of_toNat_eq
  rw [add64_toNat, BitVec.toNat_ofNat, Nat.add_mod_mod, Nat.add_sub_cancel' k.isLt.le]
  rfl

end Sys2Proof.Machine

/-! SUPPORT. The length of the period (spec 42_jump.md R140): the powers of 2 in the displacement that `2^k` transitions
make, where the multiplier is 1 modulo 4 and the increment is odd; and where it is 2 (R139). -/

namespace Sys2Proof.Machine

/-! ## Powers of 2 -/

theorem two_pow_64_eq_zero : (2 : Word) ^ 64 = 0 := BitVec.eq_of_toNat_eq (by simp)

theorem two_pow_63_ne_zero : (2 : Word) ^ 63 ≠ 0 := fun h => absurd (congrArg BitVec.toNat h) (by simp)

/-- With multiplier 2, 64 transitions or more forget the state, so that no jump can lead back to it (R139). -/
theorem transitionPow_two_eq_neg (i : Word) {n : Nat} (hn : 64 ≤ n) (x : Word) : transitionPow 2 i n x = -i := by
  have hpow : (2 : Word) ^ n = 0 := pow_eq_zero_of_le hn two_pow_64_eq_zero
  have hgeom := mul_geom_sum (2 : Word) n
  rw [transitionPow_eq_pow_mul_add]
  linear_combination i * hgeom + (i + x) * hpow

/-! ## The length of the period -/

section FullPeriod

variable {m i : Word} (hm : (4 : Word) ∣ m - 1) (hi : Odd i)

include hm in
theorem odd_of_four_dvd_sub_one : Odd m := by
  obtain ⟨t, ht⟩ := hm
  exact ⟨2 * t, by linear_combination ht⟩

include hm in
/-- A power of a multiplier that is 1 modulo 4 is 1 modulo 4, so one more is twice an odd number. -/
theorem pow_add_one_eq_two_mul_odd (n : Nat) : ∃ u : Word, Odd u ∧ m ^ n + 1 = 2 * u := by
  obtain ⟨t, ht⟩ := hm.trans (sub_one_dvd_pow_sub_one m n)
  exact ⟨2 * t + 1, odd_two_mul_add_one t, by linear_combination ht⟩

include hm hi in
/-- `2^k` transitions displace every state by an odd multiple of `2^k`: the first transition by an odd number, and
doubling the exponent multiplies the displacement by `m^(2^k) + 1`. -/
theorem transitionPow_sub_eq_two_pow_mul_odd (k : Nat) (x : Word) :
    ∃ u : Word, Odd u ∧ transitionPow m i (2 ^ k) x - x = 2 ^ k * u := by
  induction k with
  | zero =>
    refine ⟨(m - 1) * x + i, (((odd_of_four_dvd_sub_one hm).sub_odd odd_one).mul_right x).add_odd hi, ?_⟩
    rw [pow_zero, pow_zero, transitionPow_one, transition_eq_mul_add]
    ring
  | succ k ih =>
    obtain ⟨u, hu, hdisp⟩ := ih
    obtain ⟨v, hv, hfactor⟩ := pow_add_one_eq_two_mul_odd hm (2 ^ k)
    refine ⟨v * u, hv.mul hu, ?_⟩
    calc transitionPow m i (2 ^ (k + 1)) x - x
        = (m ^ 2 ^ k + 1) * (transitionPow m i (2 ^ k) x - x) := by
          rw [pow_succ, mul_two, transitionPow_add, add_one_mul, ← transitionPow_sub_transitionPow m i,
            sub_add_sub_cancel]
      _ = 2 ^ (k + 1) * (v * u) := by
          rw [hfactor, hdisp]
          ring

include hm hi in
/-- Half the full number of transitions leads no state back: it displaces by `2^63`. -/
theorem transitionPow_two_pow_63_ne (x : Word) : transitionPow m i (2 ^ 63) x ≠ x := by
  intro hback
  obtain ⟨u, ⟨v, rfl⟩, hdisp⟩ := transitionPow_sub_eq_two_pow_mul_odd hm hi 63 x
  rw [hback, sub_self] at hdisp
  exact two_pow_63_ne_zero (by linear_combination -hdisp - v * two_pow_64_eq_zero)

include hm hi in
/-- The period divides `2^64` and does not divide `2^63`. -/
theorem minimalPeriod_transition (x : Word) : Function.minimalPeriod (transition m i) x = 2 ^ 64 :=
  Function.minimalPeriod_eq_prime_pow (transitionPow_two_pow_63_ne hm hi x)
    (transitionPow_two_pow_64 (odd_of_four_dvd_sub_one hm) i x)

include hm hi in
/-- Within one period no state repeats. -/
theorem transitionPow_inj {a b : Nat} (x : Word) (ha : a < 2 ^ 64) (hb : b < 2 ^ 64)
    (h : transitionPow m i a x = transitionPow m i b x) : a = b := by
  have hperiod := minimalPeriod_transition hm hi x
  rw [← hperiod] at ha hb
  exact Function.iterate_injOn_Iio_minimalPeriod ha hb h

include hm hi in
/-- There are as many states as transitions in a period, so with none repeated every state occurs. -/
theorem exists_transitionPow_eq (x y : Word) : ∃ k : Word, transitionPow m i k.toNat x = y := by
  have hinj : Function.Injective fun k : Word => transitionPow m i k.toNat x :=
    fun a b h => BitVec.eq_of_toNat_eq (transitionPow_inj hm hi x a.isLt b.isLt h)
  exact Finite.injective_iff_surjective.mp hinj y

end FullPeriod

theorem four_dvd_params_mult_sub_one : (4 : Word) ∣ Config.params.mult - 1 := ⟨0x9eecbb9a1ec2c3f, by decide⟩

theorem odd_params_incReset : Odd Config.params.incReset := odd_of_toNat_mod_two (by decide)

end Sys2Proof.Machine

/-! PROOFS. The obligations about the jump-ahead calculator and its commands (spec 42_jump.md). -/

namespace Sys2Proof.Machine

/-- Settles O34: the pair in the ring of words, each part the reduction of the same expression in naturals. -/
theorem jumpClosedForm : Obligations.JumpClosedForm := by
  intro d m i
  rw [jump_eq_pow_geomSum]
  exact ⟨toNat_eq_mod_of_eq_natCast (by push_cast [natCast_toNat]; rfl),
    toNat_eq_mod_of_eq_natCast (by push_cast [natCast_toNat]; rfl)⟩

/-- Settles O35, by the invariant of the calculator's rounds. -/
theorem jumpIsIteratedTransition : Obligations.JumpIsIteratedTransition := jumpFrom_eq_transitionPow

/-- Settles O42: SKIP and FFWD both advance the registers, and advances add. -/
theorem jumpsCompose : Obligations.JumpsCompose := by
  intro P r a b h
  simp only [command_skip, command_ffwd, Regs.advance_advance P r h, and_self]

/-- Settles O43: a distance and its complement advance by 0; with MULT 2 every long jump leads to the negated
increment, so the second jump does not undo the first. -/
theorem oddMultiplierRewinds : Obligations.OddMultiplierRewinds := by
  refine ⟨fun m i x hm => transitionPow_two_pow_64 (odd_of_toNat_mod_two hm) i x, fun P r k hm => ?_, ?_⟩
  · simp only [command_ffwd]
    rw [Regs.advance_advance P r (.inl hm), add64_ofNat_two_pow_sub, Regs.advance_zero]
  · rw [jumpFrom_eq_transitionPow, transitionPow_two_eq_neg _ (by decide)]
    decide

/-- Settles O44: the default MULT is 1 modulo 4 and the default INC is odd, so the period is full. -/
theorem defaultPeriodIsFull : Obligations.DefaultPeriodIsFull := by
  intro x y
  obtain ⟨k, hk⟩ := exists_transitionPow_eq four_dvd_params_mult_sub_one odd_params_incReset x y
  exact ⟨k.toNat, ⟨k.isLt, hk⟩, fun n ⟨hn, hy⟩ =>
    transitionPow_inj four_dvd_params_mult_sub_one odd_params_incReset x hn k.isLt (hy.trans hk.symm)⟩

/-- Settles O36: 64 rounds leave no distance, and with none left neither the loop nor a further round moves the pair. -/
theorem jumpEndsWithinSixtyFourRounds : Obligations.JumpEndsWithinSixtyFourRounds := by
  intro w
  refine ⟨jumpRounds_64_d w, fun n hn => ?_, iterate_jumpRound_eq_jumpRounds 64 w⟩
  obtain ⟨k, rfl⟩ := Nat.exists_eq_add_of_le hn
  rw [jumpRounds_add, jumpRounds_of_d_eq_zero k (jumpRounds_64_d w)]

/-- Settles O37: FFWD commits the affine map's value and the sum. -/
theorem ffwdJumpsState : Obligations.FfwdJumpsState := by
  intro s d
  rw [exec_eq_next, command, ffwdCommand, jumpFrom, affine_eq_ofNat_mod, add64_eq_ofNat_mod]
  rfl

/-- Settles O38: JCALC commits the registers it found and the pair. -/
theorem jcalcAnswersPair : Obligations.JcalcAnswersPair := by
  intro s d
  rw [exec_eq_next, command, jcalcCommand]
  rfl

/-- Settles O39: SKIP commits what FFWD does and the output response of the new STATE. -/
theorem skipAnswersJumpedOutput : Obligations.SkipAnswersJumpedOutput := by
  intro s n s'
  rw [exec_eq_next, command, skipCommand, jumpFrom, affine_eq_ofNat_mod, add64_eq_ofNat_mod, outputResponse_eq]
  rfl

/-- Settles O40: NTHNUM commits a jump from SEED, or from one transition of it. -/
theorem nthnumAnswersFromSeed : Obligations.NthnumAnswersFromSeed := by
  constructor
  · intro s n s0 s'
    have hpre : prestep Config.params.nthnumPrestep Config.params.mult s.regs.inc s.regs.seed = s0 :=
      affine_eq_ofNat_mod ..
    rw [exec_eq_next, command, nthnumCommand, hpre, jumpFrom, affine_eq_ofNat_mod, add64_eq_ofNat_mod,
      outputResponse_eq]
    rfl
  · intro P r n hp s'
    have hpre : prestep 0 P.mult r.inc r.seed = r.seed := prestep_eq_transitionPow ..
    have hcount : add64 (BitVec.ofNat 64 (0 : Fin 2).val) n = n := (add64_eq_add ..).trans (zero_add n)
    have hstate : jumpFrom n P.mult r.inc r.seed = s' := affine_eq_ofNat_mod ..
    rw [command, nthnumCommand, hp, hpre, hcount, hstate, outputResponse_eq]

/-- Settles O41: an advance by 1 is one transition, and an advance by 0 leaves the registers. -/
theorem skipOneIsNextAndSkipZeroIsPeek : Obligations.SkipOneIsNextAndSkipZeroIsPeek := by
  intro P r
  rw [command_skip, command_skip, Regs.advance_zero]
  exact ⟨rfl, rfl, rfl⟩

end Sys2Proof.Machine

/-! SUPPORT. What LOAD leaves (spec 43_session.md R167), and what the increment does to the states that follow from one
seed (R169). -/

namespace Sys2Proof.Machine

/-! ## Loading -/

theorem command_load (P : Params) (a b c : Word) (r : Regs) :
    command P (.load a b c) r
      = ({ state := transitionPow P.mult c b.toNat a, seed := a, count := b, inc := c }, respondNothing) := by
  rw [command, loadCommand, jumpFrom_eq_transitionPow]

/-! ## Two increments -/

theorem ofNat_geomSum_toNat (m : Word) (n : Nat) :
    BitVec.ofNat 64 (∑ k ∈ Finset.range n, m.toNat ^ k) = ∑ k ∈ Finset.range n, m ^ k := by
  rw [← BitVec.natCast_eq_ofNat]
  push_cast [natCast_toNat]
  rfl

/-- The power of the multiplier does not see the increment, so two increments differ by their geometric sums (R169). -/
theorem transitionPow_eq_add_sub_mul_geomSum (m i₁ i₂ x : Word) (n : Nat) :
    transitionPow m i₁ n x = transitionPow m i₂ n x + (i₁ - i₂) * ∑ k ∈ Finset.range n, m ^ k := by
  rw [transitionPow_eq_pow_mul_add, transitionPow_eq_pow_mul_add]
  ring

/-- An even number of odd powers has an even sum: they pair to multiples of `m + 1`. -/
theorem even_geomSum_two_mul {m : Word} (hm : Odd m) (n : Nat) : Even (∑ k ∈ Finset.range (2 * n), m ^ k) := by
  induction n with
  | zero => exact ⟨0, rfl⟩
  | succ n ih =>
    rw [Nat.mul_succ, Finset.sum_range_succ, Finset.sum_range_succ, add_assoc]
    exact ih.add (hm.pow.add_odd hm.pow)

/-- Bit 63 of the increment reaches bit 63 of the state and no other, and an even sum clears it (R169). -/
theorem transitionPow_add_two_pow_63 {m : Word} (hm : Odd m) (i : Word) (n : Nat) (x : Word) :
    transitionPow m (i + 2 ^ 63) (2 * n) x = transitionPow m i (2 * n) x := by
  obtain ⟨u, hu⟩ := even_geomSum_two_mul hm n
  rw [transitionPow_eq_add_sub_mul_geomSum m (i + 2 ^ 63) i, hu]
  linear_combination u * two_pow_64_eq_zero

end Sys2Proof.Machine

/-! PROOFS. The obligations about the register-access commands (spec 43_session.md). -/

namespace Sys2Proof.Machine

/-- Settles O50: LOAD sets STATE to the state a consistent register set already holds. -/
theorem saveLoadRoundTrip : Obligations.SaveLoadRoundTrip := by
  intro P r later saved loaded
  have hloaded : loaded = { r with state := transitionPow P.mult r.inc r.count.toNat r.seed } :=
    congrArg Prod.fst (command_load P r.seed r.count r.inc later)
  refine ⟨hloaded, fun hr => ?_⟩
  rw [hloaded, ← hr]

/-- Settles O51: PEEK reads STATE only, the closed form of the transitions gives the difference, and the two examples
are one step evaluated and a difference of `2^63` times an even sum. -/
theorem incrementSensitivity : Obligations.IncrementSensitivity := by
  refine ⟨fun P r i => rfl, fun m i₁ i₂ x n => ?_, by decide, fun n => ?_⟩
  · rw [ofNat_geomSum_toNat]
    exact transitionPow_eq_add_sub_mul_geomSum m i₁ i₂ x n
  · have hinc : (0x94057b7ef767814f : Word) = 0x14057b7ef767814f + 2 ^ 63 := BitVec.eq_of_toNat_eq (by simp)
    rw [hinc]
    exact transitionPow_add_two_pow_63 (odd_of_toNat_mod_two (by decide)) _ n _

/-- Settles O45: SETSEED commits the operand as SEED and STATE, and COUNT 0. -/
theorem setseedReseeds : Obligations.SetseedReseeds := by
  intro s v
  rw [exec_eq_next, command, setseedCommand]
  rfl

/-- Settles O46: SETINC commits the operand as INC. -/
theorem setincReplacesIncrement : Obligations.SetincReplacesIncrement := by
  intro s v
  rw [exec_eq_next, command, setincCommand]
  rfl

/-- Settles O47: each of the four commits the registers it found. -/
theorem gettersAnswerRegisters : Obligations.GettersAnswerRegisters := fun s =>
  ⟨exec_eq_next .getseed s, exec_eq_next .getinc s, exec_eq_next .getcount s, exec_eq_next .save s⟩

/-- Settles O48: SETCOUNT commits the affine map's value at SEED, under the INC it found. -/
theorem setcountRepositions : Obligations.SetcountRepositions := by
  intro s k
  rw [exec_eq_next, command, setcountCommand, jumpFrom, affine_eq_ofNat_mod]
  rfl

/-- Settles O49: LOAD commits the tuple and the affine map's value at the loaded seed, under the loaded increment. -/
theorem loadRestoresTuple : Obligations.LoadRestoresTuple := by
  intro s a b c
  rw [exec_eq_next, command, loadCommand, jumpFrom, affine_eq_ofNat_mod]
  rfl

end Sys2Proof.Machine

/-! PROOFS. The obligations about the one exception and about completion (spec 60_exceptions.md R190, R191, R218). -/

namespace Sys2Proof.Machine

/-- A command in flight with an unassigned opcode is answered ILLEGAL, and nothing but the phase changes (R191). -/
theorem step_answers_illegal {s : State} {req : Request} (hp : s.phase = .computing req) (hr : NoResetNext s)
    (hbad : req.wellFormed = false) : step s = .next (s.commit s.regs (respond .illegal 0 0 0)) := by
  rw [step_answers hp hr, transact_of_reject Config.params s.regs (decode_of_not_wellFormed hbad)]
  rfl

/-- A step of a block with no command in flight and no reset at the next edge goes on. -/
theorem exists_step_eq_next_of_not_computing {s : State} (hr : NoResetNext s)
    (hp : ∀ req, s.phase ≠ .computing req) : ∃ t, step s = .next t := by
  cases hi : s.input with
  | nil => exact ⟨_, step_of_idle hi hp⟩
  | cons e rest => exact ⟨_, step_of_transfer hi (hr e rest hi) hp⟩

/-- Every step goes on: a reset, a command in flight with any operands, a transfer and an idle block each have a next
state (R190, R191, R218). -/
theorem exists_step_eq_next (s : State) : ∃ t, step s = .next t := by
  by_cases hr : NoResetNext s
  · by_cases hc : ∃ req, s.phase = .computing req
    · obtain ⟨req, hp⟩ := hc
      exact ⟨_, step_answers hp hr⟩
    · exact exists_step_eq_next_of_not_computing hr (not_exists.mp hc)
  · simp only [NoResetNext, not_forall, Bool.not_eq_false] at hr
    obtain ⟨e, rest, hi, he⟩ := hr
    exact ⟨_, step_of_reset hi he⟩

/-- Settles O6, by its three steps: the block answers ILLEGAL, delivers that response, and accepts the next command. -/
theorem blockGoesOnAfterIllegal : Obligations.BlockGoesOnAfterIllegal := by
  refine ⟨rfl, fun s bad good rest hbad hp hi => ?_⟩
  have hanswer := step_answers_illegal hp (noResetNext_of_cons hi rfl) hbad
  calc core.run 3 s
    _ = core.run 2 (s.commit s.regs (respond .illegal 0 0 0)) := run_succ_of_step 2 hanswer
    _ = core.run 1 (((s.commit s.regs (respond .illegal 0 0 0)).withInput (offerEdge good :: rest)).deliver
          (respond .illegal 0 0 0)) := run_succ_of_step 1 (step_delivers hi rfl rfl rfl)
    _ = _ := run_succ_of_step 0 (step_accepts rfl rfl rfl rfl)

/-- Settles O10: a command completes with its transaction, and every step has a next state. -/
theorem everyStepGoesOn : Obligations.EveryStepGoesOn :=
  ⟨fun i s => ⟨_, exec_eq_next i s⟩, exists_step_eq_next⟩

end Sys2Proof.Machine

/-! PROOFS. The obligations about reset and completion (spec 70_reset_and_hazards.md R210, R213, R218). -/

namespace Sys2Proof.Machine

/-- While `rst` is 1 the response held, if there is one, is not offered (R210). -/
theorem State.offered_of_rstNext {s : State} (h : s.rstNext = true) : s.offered = none := if_pos h

/-- Settles O11: the step commits the request's transaction, which has registers and a response for every opcode. -/
theorem commandInFlightIsAnswered : Obligations.CommandInFlightIsAnswered := by
  intro s req hp hr
  exact ⟨_, _, step_answers hp hr⟩

/-- Settles O16: `rst` hides the response held, and the edge is a reset whatever the phase is. -/
theorem resetEdgeAbandonsEverything : Obligations.ResetEdgeAbandonsEverything := by
  intro s e rest hi he
  have hrst : s.rstNext = true := (State.rstNext_cons hi).trans he
  exact ⟨State.offered_of_rstNext hrst, State.rspValid_of_rstNext hrst, step_of_reset hi he⟩

end Sys2Proof.Machine
